-- ==== Sys2Proof/Word.lean ====
section
/-! DEFINITION. The word types of PXE: 32-bit registers and descriptors, 8-bit channels (10_state.md R23, R42, R43). -/

namespace Sys2Proof

/-- A 32-bit register value, command word or pulse descriptor (R23, R43, R90). -/
abbrev Word := BitVec 32

/-- A byte of the colour buffer, a `u8` (R12, R42). -/
abbrev Byte := BitVec 8

/-- A tick count, `TW = 15` bits (00_scope.md R9, 10_state.md R27). -/
abbrev Ticks := BitVec 15

/-- A byte offset from BASE in the 4 MiB Host address space (20_memory.md R60). -/
abbrev Offset := BitVec 22

end Sys2Proof
end

