-- ==== Sys2Proof/Syntax.lean ====
section
/-! DEFINITION. The commands of PXE, its instructions: one constructor per row of the opcode map (30_encoding.md R94). -/

namespace Sys2Proof

/-- A command, as decoded from the word written to CMD. The three CI commands carry INDEX, a pixel number (R91, R92). -/
inductive Instr where
  | configure
  | release
  | setRgb (index : Nat)
  | setRgbw (index : Nat)
  | setHsb (index : Nat)
  | clear
  | render
  | convHsb2rgb
  | convRgb2rgbwSimple
  | convRgb2rgbwComplex
  deriving DecidableEq, Repr

end Sys2Proof
end

