-- ==== Sys2Proof/WellFormed.lean ====
section
/-! DEFINITION. Which terms of `Instr` stand for a command word: a CI index lies in 0 to 65535 (30_encoding.md R92, R98). -/

namespace Sys2Proof

/-- INDEX is an unsigned 16-bit field (R92): "A CI index must lie in 0 to 65535" (R98). -/
def Instr.wellFormed : Instr → Bool
  | .configure => true
  | .release => true
  | .setRgb index => decide (index < 65536)
  | .setRgbw index => decide (index < 65536)
  | .setHsb index => decide (index < 65536)
  | .clear => true
  | .render => true
  | .convHsb2rgb => true
  | .convRgb2rgbwSimple => true
  | .convRgb2rgbwComplex => true

end Sys2Proof
end

