-- ==== Sys2Proof/Decode.lean ====
section
/-! DEFINITION. The decoder of command words, total over all of them (30_encoding.md R95), and after it the encoder,
written from the opcode map (R94). -/

namespace Sys2Proof

/-- Why a word is illegal (R96). -/
inductive Illegal where
  /-- Fewer than four bytes: not a 32-bit write to CMD, so no command word (R90). -/
  | notOneWord
  /-- An OPC value that R94 does not list. -/
  | reservedOpcode
  /-- A CI word with RSV ≠ 0. -/
  | rsvNotZero
  /-- A CN word with bits [23:0] ≠ 0. -/
  | fieldNotZero
  deriving DecidableEq, Repr

/-- The result of decoding: a command, or ILLEGAL with its reason. -/
inductive Decoded where
  | instr (i : Instr)
  | illegal (reason : Illegal)
  deriving DecidableEq, Repr

/-- OPC, bits [31:24] (R90). -/
def opcField (w : Word) : BitVec 8 := w.extractLsb' 24 8

/-- RSV, bits [23:16] (R90). -/
def rsvField (w : Word) : BitVec 8 := w.extractLsb' 16 8

/-- INDEX, bits [15:0] (R90). -/
def indexField (w : Word) : BitVec 16 := w.extractLsb' 0 16

/-- Bits [23:0], which a CN word has zero (R91). -/
def cnField (w : Word) : BitVec 24 := w.extractLsb' 0 24

/-- Format CI: RSV must be 0; the index is zero-extended (R91, R92). -/
def decodeCI (w : Word) (make : Nat → Instr) : Decoded :=
  if rsvField w ≠ 0 then .illegal .rsvNotZero else .instr (make (indexField w).toNat)

/-- Format CN: bits [23:0] must be 0 (R91). -/
def decodeCN (w : Word) (i : Instr) : Decoded :=
  if cnField w ≠ 0 then .illegal .fieldNotZero else .instr i

/-- The decode procedure of R95 with the opcode map of R94. -/
def decode (w : Word) : Decoded :=
  match (opcField w).toNat with
  | 0x01 => decodeCN w .configure
  | 0x02 => decodeCN w .release
  | 0x10 => decodeCI w .setRgb
  | 0x11 => decodeCI w .setRgbw
  | 0x12 => decodeCI w .setHsb
  | 0x18 => decodeCN w .clear
  | 0x20 => decodeCN w .render
  | 0x30 => decodeCN w .convHsb2rgb
  | 0x31 => decodeCN w .convRgb2rgbwSimple
  | 0x32 => decodeCN w .convRgb2rgbwComplex
  | _ => .illegal .reservedOpcode

/-- The little-endian word of four bytes, the first at the lowest offset (20_memory.md R62). -/
def wordOfBytes (b0 b1 b2 b3 : Byte) : Word := b3 ++ b2 ++ b1 ++ b0

/-- The decoder on bytes: one command is one 32-bit word (R90, R97). The bytes after it are handed back. -/
def decodeBytes : List Byte → Decoded × List Byte
  | b0 :: b1 :: b2 :: b3 :: rest => (decode (wordOfBytes b0 b1 b2 b3), rest)
  | short => (.illegal .notOneWord, short)

/-- Byte `j` of a word in the bus order (R62). -/
def byteOfWord (w : Word) (j : Nat) : Byte := w.extractLsb' (8 * j) 8

/-- The bytes of a command word, lowest offset first (R62). -/
def bytesOfWord (w : Word) : List Byte := [byteOfWord w 0, byteOfWord w 1, byteOfWord w 2, byteOfWord w 3]

/-- The opcode of a command (R94). -/
def opcode : Instr → BitVec 8
  | .configure => 0x01
  | .release => 0x02
  | .setRgb _ => 0x10
  | .setRgbw _ => 0x11
  | .setHsb _ => 0x12
  | .clear => 0x18
  | .render => 0x20
  | .convHsb2rgb => 0x30
  | .convRgb2rgbwSimple => 0x31
  | .convRgb2rgbwComplex => 0x32

/-- Bits [15:0] of a command's word: INDEX of a CI command, 0 of a CN command (R91). -/
def indexBits : Instr → BitVec 16
  | .configure => 0
  | .release => 0
  | .setRgb index => BitVec.ofNat 16 index
  | .setRgbw index => BitVec.ofNat 16 index
  | .setHsb index => BitVec.ofNat 16 index
  | .clear => 0
  | .render => 0
  | .convHsb2rgb => 0
  | .convRgb2rgbwSimple => 0
  | .convRgb2rgbwComplex => 0

/-- The command word {OPC, RSV = 0, INDEX} (R90, R98). -/
def encode (i : Instr) : Word := opcode i ++ (0 : BitVec 8) ++ indexBits i

/-- The instruction the decoder reads from an instruction of `nbits` bits `w`, laid out as bytes in the bus order. -/
def decodeTableWord (nbits w : Nat) : Option Instr :=
  match decodeBytes (bytesOfWord (BitVec.ofNat 32 (w % 2 ^ nbits))) with
  | (.instr i, _) => some i
  | (.illegal _, _) => none

end Sys2Proof
end

