-- ==== Sys2Proof/Config.lean ====
section
/-! DEFINITION. The OPEN parameters of 00_scope.md R9: constants without a body, so that nothing can be proved of their
values beyond the ranges the spec states. -/

namespace Sys2Proof.Config

/-- The four named timing profiles of 42_timing.md R175. -/
inductive Profile where
  | ws2812
  | ws2815
  | sk6812
  | sk6812w
  deriving DecidableEq, Repr

/-- Four durations in nanoseconds, in the order of R175. -/
structure NsTiming where
  t0h : Nat
  t0l : Nat
  t1h : Nat
  t1l : Nat
  deriving DecidableEq, Repr, Inhabited

/-- CAP_BYTES − 1, for a CAP_BYTES in 1 to 65535 (R9). -/
opaque capIndex : Fin 65535

/-- CAP_BYTES, the colour buffer's capacity: OPEN, `1 ≤ CAP_BYTES ≤ 65535` (R9). Log 4. -/
def capBytes : Nat := capIndex.val + 1

/-- BASE in units of 4 MiB. -/
opaque baseIndex : Nat

/-- BASE, the bus address of the block: OPEN, aligned to 4 MiB (R9, R60). Log 12. -/
def base : Nat := baseIndex * 0x400000

/-- TX_BIND_OK: the Transmitter's answer to the BIND of the given number, where the state lists none (R9, R240). Log 3. -/
opaque txBindOk : Nat → Bool

/-- CLOCK_RATE, whose unit the spec leaves open (42_timing.md R173). Log 20. -/
opaque clockRate : Nat

/-- DIVIDER − 1. -/
opaque dividerPred : Nat

/-- DIVIDER: OPEN, at least 1 (R172). Log 20. -/
def divider : Nat := dividerPred + 1

/-- PRESET_NS[p]: OPEN for each of the four profiles (R175). Log 20. -/
opaque presetNs : Profile → NsTiming

/-- TX_ZERO_DURATION: all that the Transmitter puts on the line during a PLAY whose waveform holds a zero-tick segment, as
(level, ticks) segments; of the PLAY's place among the requests and of its whole waveform (R177, R307). Log 19. -/
opaque txZeroDuration : Nat → List (Bool × Nat) → List (Bool × Nat)

/-- T_LATCH: whether the line's idle-low time after a PLAY is long enough for the strip to latch (R306). Log 19. -/
opaque tLatch : Bool

end Sys2Proof.Config
end

