-- ==== Sys2Proof/Machine/State.lean ====
section
/-! DEFINITION. The state of PXE (10_state.md), the steps and requests it exchanges with its Host and its Transmitter, and
the reasons a step can stop. -/

namespace Sys2Proof.Machine

/-- CFG without its reserved bits (R24). -/
structure Cfg where
  /-- CH4, bit 0: an RGBW strip. -/
  ch4 : Bool
  /-- CONV, bit 1: the Simple converter; else Complex. -/
  conv : Bool
  /-- ORDER, bits [12:8]: the channel-order code. -/
  order : BitVec 5
  deriving DecidableEq, Repr

/-- TXCFG without its reserved bits (R28). -/
structure TxCfg where
  /-- PIN, bits [7:0]. -/
  pin : BitVec 8
  /-- TXCH, bits [11:8]. -/
  txch : BitVec 4
  /-- DIV, bits [23:16]. -/
  div : BitVec 8
  deriving DecidableEq, Repr

/-- The configuration registers (R20, R24 to R28). -/
structure Conf where
  cfg : Cfg
  /-- NPIX.N, the pixel count (R26). -/
  npix : BitVec 16
  t0h : Ticks
  t0l : Ticks
  t1h : Ticks
  t1l : Ticks
  txcfg : TxCfg
  deriving DecidableEq, Repr

/-- The operand registers (R31, R32). -/
structure Operands where
  opa : Word
  oph : Word
  ops : Word
  opb : Word
  deriving DecidableEq, Repr

/-- STATUS.TXS, the transmit state of the latest RENDER (R38). -/
inductive Txs where
  | idle
  | active
  | done
  | failed
  deriving DecidableEq, Repr

/-- The result codes of STATUS.ERR; codes 8 to 15 are never produced (R260). -/
inductive Err where
  | ok
  | illegal
  | busy
  | notConfigured
  | alreadyConfigured
  | mismatch
  | index
  | config
  deriving DecidableEq, Repr

/-- STATUS without BUSY, which is derived from TXS (R34, R35). -/
structure Status where
  configured : Bool
  /-- The sticky dropped-write flag (R37). -/
  wdrop : Bool
  txs : Txs
  err : Err
  deriving DecidableEq, Repr

/-- A sparse memory of `w`-bit cells, by index: sorted by index, no repeats, no zero cell listed; an unlisted cell reads 0
(log 6). The colour buffer is a `Memory 8`, a list of `Host.Cell` (R42); the pulse buffer a `Memory 32` (R43). -/
abbrev Memory (w : Nat) := List (Nat × BitVec w)

/-- A Host bus access of `n` bytes at a byte offset from BASE: MemRead and MemWrite of R11. A write's data is in the low
`8 n` bits. Log 14. -/
inductive Access where
  | read (off : Offset) (n : Nat)
  | write (off : Offset) (n : Nat) (data : Word)
  deriving DecidableEq, Repr

/-- The Transmitter's two events (R237). -/
inductive TxEvent where
  | done
  | fail
  deriving DecidableEq, Repr

/-- One atomic step of the total order (R73), or an access by a second Host, which is refused (R275, log 1). -/
inductive Input where
  | host (a : Access)
  | otherHost (a : Access)
  | tx (e : TxEvent)
  | reset
  deriving DecidableEq, Repr

/-- The requests PXE sends to the Transmitter (R240 to R242). -/
inductive TxRequest where
  | bind (c : TxCfg)
  | unbind
  | play (count : Nat)
  deriving DecidableEq, Repr

/-- The model's own fields: the inputs and outputs of PXE and its OPEN capacity; none is a register (log 2, 3, 4, 10, 11). -/
structure Env where
  /-- The steps still to come, in their total order (R73). -/
  inputs : List Input
  /-- The Transmitter's answers to the next BINDs, oldest first; where none is listed the answer is a free value (R240). -/
  bindAnswers : List Bool
  /-- The number of BINDs answered, the argument of that free value. -/
  bindDraws : Nat
  /-- CAP_BYTES (R9). -/
  capBytes : Nat
  /-- The data returned by the last Host read. -/
  lastRead : Option Word
  /-- The requests sent to the Transmitter, newest first. -/
  txRequests : List TxRequest
  deriving DecidableEq, Repr

/-- The state of PXE (R20), with the model's own `env` beside it. -/
structure State where
  conf : Conf
  opnd : Operands
  stat : Status
  /-- RES (R40). -/
  res : Word
  /-- PLEN (R41). -/
  plen : Word
  /-- CBUF, the colour buffer (R42). -/
  cbuf : Memory 8
  /-- PBUF, the pulse buffer (R43). -/
  pbuf : Memory 32
  env : Env
  deriving DecidableEq, Repr

/-- Why a step can stop with a fault. -/
inductive Fault where
  /-- A SET command would write a pixel while the configured ORDER has no row in its table. Raised by SET_RGB, SET_RGBW and
  SET_HSB through `serialize`. Safe: CONFIGURE refuses such a code (R25, R191), so no run from reset meets it (log 8). -/
  | orderNotInTable
  deriving DecidableEq, Repr

/-- Why a step can be refused. -/
inductive Refusal where
  /-- An instruction without a meaning yet; safe. Raised by no arm of this model. -/
  | notModelled (mnemonic : String)
  /-- An access by a second Host: "A model must refuse a program that has two Hosts on one PXE" (R275). Raised by the step
  that meets such an access; safe (log 1). -/
  | secondHost
  deriving DecidableEq, Repr

/-- PXE right after reset (R48). The buffers' contents are unspecified and unobservable then (log 6). -/
def State.reset : State where
  conf :=
    { cfg := { ch4 := false, conv := false, order := 0 }
      npix := 0, t0h := 0, t0l := 0, t1h := 0, t1l := 0
      txcfg := { pin := 0, txch := 0, div := 0 } }
  opnd := { opa := 0, oph := 0, ops := 0, opb := 0 }
  stat := { configured := false, wdrop := false, txs := .idle, err := .ok }
  res := 0
  plen := 0
  cbuf := []
  pbuf := []
  env :=
    { inputs := [], bindAnswers := [], bindDraws := 0, capBytes := Config.capBytes, lastRead := none, txRequests := [] }

end Sys2Proof.Machine
end

