-- ==== Sys2Proof/Machine/Ops.lean ====
section
/-! DEFINITION. The shared operations: the sparse memories, the named updates of State, what is derived from it, the error
that a command raises (the spec's only exception: R11, R263), and the requests to the Transmitter. -/

namespace Sys2Proof.Machine

/-! ## Memories -/

/-- The cell at index `a`; an unlisted one reads 0 (log 6). -/
def Memory.read {w : Nat} : Memory w → Nat → BitVec w
  | [], _ => 0
  | (b, v) :: rest, a => if a = b then v else Memory.read rest a

/-- The listed cells for the values `vs` at `base`, `base + 1`, …: the non-zero ones. -/
def Memory.cells {w : Nat} (base : Nat) : List (BitVec w) → Memory w
  | [] => []
  | v :: vs => if v = 0 then Memory.cells (base + 1) vs else (base, v) :: Memory.cells (base + 1) vs

/-- Writes `vs` at `base`, `base + 1`, …, and nothing else. -/
def Memory.writeRange {w : Nat} (m : Memory w) (base : Nat) (vs : List (BitVec w)) : Memory w :=
  m.filter (fun c => decide (c.1 < base)) ++ Memory.cells base vs ++
    m.filter (fun c => decide (base + vs.length ≤ c.1))

/-- Writes one cell. -/
def Memory.write {w : Nat} (m : Memory w) (a : Nat) (v : BitVec w) : Memory w := Memory.writeRange m a [v]

/-- The canonical form: indices strictly rising from `lo` on, and no zero cell listed. -/
def Memory.wfFrom {w : Nat} (lo : Nat) : Memory w → Bool
  | [] => true
  | (a, v) :: rest => decide (lo ≤ a) && decide (v ≠ 0) && Memory.wfFrom (a + 1) rest

/-- The canonical form of a memory. -/
def Memory.wf {w : Nat} (m : Memory w) : Bool := Memory.wfFrom 0 m

/-! ## Named updates -/

/-- Writes STATUS.ERR and nothing else. -/
def State.setErr (s : State) (e : Err) : State := { s with stat := { s.stat with err := e } }
/-- Writes STATUS.WDROP and nothing else. -/
def State.setWdrop (s : State) (b : Bool) : State := { s with stat := { s.stat with wdrop := b } }
/-- Writes STATUS.TXS and nothing else. -/
def State.setTxs (s : State) (x : Txs) : State := { s with stat := { s.stat with txs := x } }
/-- Writes STATUS.CONFIGURED and nothing else. -/
def State.setConfigured (s : State) (b : Bool) : State := { s with stat := { s.stat with configured := b } }
/-- Writes the configuration registers and nothing else. -/
def State.setConf (s : State) (c : Conf) : State := { s with conf := c }
/-- Writes the operand registers and nothing else. -/
def State.setOpnd (s : State) (o : Operands) : State := { s with opnd := o }
/-- Writes RES and nothing else. -/
def State.setRes (s : State) (v : Word) : State := { s with res := v }
/-- Writes PLEN and nothing else. -/
def State.setPlen (s : State) (v : Word) : State := { s with plen := v }
/-- Writes CBUF and nothing else. -/
def State.setCbuf (s : State) (m : Memory 8) : State := { s with cbuf := m }
/-- Writes PBUF and nothing else. -/
def State.setPbuf (s : State) (m : Memory 32) : State := { s with pbuf := m }
/-- Replaces the inputs and outputs and nothing of PXE. -/
def State.setEnv (s : State) (e : Env) : State := { s with env := e }

/-! ## Derived from State -/

/-- STATUS.BUSY, always equal to (TXS == 1) (R35). -/
def State.busy (s : State) : Bool := decide (s.stat.txs = .active)

/-- N, the pixel count (R26). -/
def State.pixels (s : State) : Nat := s.conf.npix.toNat

/-- CH, the channels per pixel: 3 or 4, chosen by CFG.CH4 (R9, R24). -/
def State.ch (s : State) : Nat := if s.conf.cfg.ch4 then 4 else 3

/-- B, the bits per pixel (R9). -/
def State.bits (s : State) : Nat := 8 * s.ch

/-- LIVE = N × CH when configured, and 0 otherwise (R42). -/
def State.live (s : State) : Nat := if s.stat.configured then s.pixels * s.ch else 0

/-! ## Errors -/

/-- `raise Err(code)`: "writes STATUS.ERR <- code and changes no other state" (R11, R263). PXE has no trap entry and no
return (R268, R269): this is all of its exception handling. -/
def State.raise (s : State) (e : Err) : State := s.setErr e

/-- A command that ends well writes STATUS.ERR <- OK (R39). -/
def State.succeed (s : State) : State := s.setErr .ok

/-- A dropped Host write sets the sticky WDROP and nothing else (R37, R266). -/
def State.dropWrite (s : State) : State := s.setWdrop true

/-- The first failing check of an ordered list: "A command reports only the first check that fails" (R261). -/
def firstFailure : List (Bool × Err) → Option Err
  | [] => none
  | (fails, e) :: rest => if fails then some e else firstFailure rest

/-- A command: the BUSY check first, then its own checks in their order, then its effect (R261). The decode check
stands where the word is decoded, in `issue`. -/
def command (s : State) (checks : List (Bool × Err)) (effect : Host.Outcome State Fault Refusal) :
    Host.Outcome State Fault Refusal :=
  match firstFailure ((s.busy, .busy) :: checks) with
  | some e => .next (s.raise e)
  | none => effect

/-! ## The Transmitter port -/

/-- Sends a request to the Transmitter (R11). -/
def State.send (s : State) (r : TxRequest) : State :=
  s.setEnv { s.env with txRequests := r :: s.env.txRequests }

/-- The Transmitter's answer to the next BIND: true is ok. A draw (R240): the next listed answer, else a free value. Log 3. -/
def State.bindAnswer (s : State) : Bool :=
  match s.env.bindAnswers with
  | a :: _ => a
  | [] => Config.txBindOk s.env.bindDraws

/-- BIND(pin, txch, div) with TXCFG's fields, sent and answered within the step (R240). -/
def State.bind (s : State) : State :=
  s.setEnv { s.env with
    bindAnswers := s.env.bindAnswers.tail
    bindDraws := s.env.bindDraws + 1
    txRequests := .bind s.conf.txcfg :: s.env.txRequests }

end Sys2Proof.Machine
end

