-- ==== Sys2Proof/Machine/Operands.lean ====
section
/-! DEFINITION. The operand forms: packed colours (30_encoding.md R93), binary32 patterns (40_color_conversion.md R120) and
the numeric functions of 00_scope.md R12. -/

namespace Sys2Proof.Machine

/-- RgbPixel (00_scope.md R14). -/
structure Rgb where
  red : Byte
  green : Byte
  blue : Byte
  deriving DecidableEq, Repr

/-- RgbwPixel (00_scope.md R14). -/
structure Rgbw where
  red : Byte
  green : Byte
  blue : Byte
  white : Byte
  deriving DecidableEq, Repr

/-- R, G and B of a packed colour (R93). -/
def unpackRgb (w : Word) : Rgb :=
  { red := w.extractLsb' 16 8, green := w.extractLsb' 8 8, blue := w.extractLsb' 0 8 }

/-- R, G, B and W of a packed colour (R93). -/
def unpackRgbw (w : Word) : Rgbw :=
  { red := w.extractLsb' 16 8, green := w.extractLsb' 8 8, blue := w.extractLsb' 0 8, white := w.extractLsb' 24 8 }

/-- {W, R, G, B} with W in bits [31:24] (R93). -/
def packRgbw (p : Rgbw) : Word := p.white ++ p.red ++ p.green ++ p.blue

/-- {8'h00, r, g, b} (R140). -/
def packRgb (p : Rgb) : Word := (0 : BitVec 8) ++ p.red ++ p.green ++ p.blue

/-- The channels of a pixel in the order R, G, B (R155). -/
def Rgb.channels (p : Rgb) : List Byte := [p.red, p.green, p.blue]

/-- The channels of a pixel in the order R, G, B, W (R155). -/
def Rgbw.channels (p : Rgbw) : List Byte := [p.red, p.green, p.blue, p.white]

/-! ## Numbers (R12) -/

/-- trunc: rounds toward zero. -/
def trunc (x : ℚ) : Int := Int.tdiv x.num x.den

/-- roundHA: to the nearest integer, halves away from zero. -/
def roundHA (x : ℚ) : Int :=
  if 0 ≤ x then Rat.floor (x + 1 / 2) else -Rat.floor (-x + 1 / 2)

/-- sat8: 0 below 0, 255 above 255. -/
def sat8 (n : Int) : Byte :=
  if n < 0 then 0 else if 255 < n then 255 else BitVec.ofInt 8 n

/-- 2 to an integer power. -/
def pow2 : Int → ℚ
  | .ofNat n => ((2 ^ n : Nat) : ℚ)
  | .negSucc n => 1 / ((2 ^ (n + 1) : Nat) : ℚ)

/-- sgn = w[31] (R120). -/
def f32sign (w : Word) : Bool := w.getLsbD 31

/-- e = w[30:23] (R120). -/
def f32exp (w : Word) : Nat := (w.extractLsb' 23 8).toNat

/-- m = w[22:0] (R120). -/
def f32frac (w : Word) : Nat := (w.extractLsb' 0 23).toNat

/-- `f32val(w)`: the exact value of a binary32 pattern; none for infinities and NaNs (R120). -/
def f32val (w : Word) : Option ℚ :=
  let sign : ℚ := if f32sign w then -1 else 1
  if f32exp w = 255 then none
  else if f32exp w = 0 then some (sign * (f32frac w : ℚ) * pow2 (-149))
  else some (sign * ((2 ^ 23 + f32frac w : Nat) : ℚ) * pow2 ((f32exp w : Int) - 150))

end Sys2Proof.Machine
end

