-- ==== Sys2Proof/Machine/Flags.lean ====
section
/-! DEFINITION. The STATUS word and its codes (10_state.md R34 to R39, 60_exceptions.md R260). PXE has no arithmetic flags
(R45). -/

namespace Sys2Proof.Machine

/-- The code of TXS (R38). -/
def Txs.code : Txs → BitVec 2
  | .idle => 0
  | .active => 1
  | .done => 2
  | .failed => 3

/-- The code of ERR (R260). -/
def Err.code : Err → BitVec 4
  | .ok => 0
  | .illegal => 1
  | .busy => 2
  | .notConfigured => 3
  | .alreadyConfigured => 4
  | .mismatch => 5
  | .index => 6
  | .config => 7

/-- STATUS as read: ERR [11:8], TXS [5:4], WDROP [2], CONFIGURED [1], BUSY [0]; reserved bits read 0 (R34). -/
def State.statusWord (s : State) : Word :=
  (0 : BitVec 20) ++ s.stat.err.code ++ (0 : BitVec 2) ++ s.stat.txs.code ++ (0 : BitVec 1) ++
    BitVec.ofBool s.stat.wdrop ++ BitVec.ofBool s.stat.configured ++ BitVec.ofBool s.busy

/-- A 32-bit write to STATUS: a 1 in bit 2 clears WDROP; no other field changes (R37). -/
def State.writeStatus (s : State) (v : Word) : State := if v.getLsbD 2 then s.setWdrop false else s

end Sys2Proof.Machine
end

