-- ==== Sys2Proof/Machine/Color.lean ====
section
/-! DEFINITION. The colour-space converters in exact rational arithmetic and the three CONV commands
(40_color_conversion.md). -/

namespace Sys2Proof.Machine

/-- One component of a chromatic result: `sat8(trunc(x × 255))` (R122). -/
def component (x : ℚ) : Byte := sat8 (trunc (x * 255))

/-- `HsbToRgb(h, s, v)` on finite operands (R122 to R126). -/
def hsbToRgb (h s v : ℚ) : Rgb :=
  if s ≤ 0 then
    let c := sat8 (roundHA (v * 255))
    { red := c, green := c, blue := c }
  else
    let h := if 360 ≤ h then 0 else h
    let hh := h / 60
    let i := Rat.floor hh
    let ff := hh - (i : ℚ)
    let p := v * (1 - s)
    let q := v * (1 - s * ff)
    let t := v * (1 - s * (1 - ff))
    if i = 0 then { red := component v, green := component t, blue := component p }
    else if i = 1 then { red := component q, green := component v, blue := component p }
    else if i = 2 then { red := component p, green := component v, blue := component t }
    else if i = 3 then { red := component p, green := component q, blue := component v }
    else if i = 4 then { red := component t, green := component p, blue := component v }
    else { red := component v, green := component p, blue := component q }

/-- HsbToRgb on binary32 patterns: any non-finite operand gives (0, 0, 0) (R121). -/
def hsbPatternsToRgb (oph ops opb : Word) : Rgb :=
  match f32val oph, f32val ops, f32val opb with
  | some h, some s, some v => hsbToRgb h s v
  | _, _, _ => { red := 0, green := 0, blue := 0 }

/-- The HSB operand registers through HsbToRgb (R93, R140, R202). -/
def State.hsbOperand (s : State) : Rgb := hsbPatternsToRgb s.opnd.oph s.opnd.ops s.opnd.opb

/-- The smaller of two bytes. -/
def minByte (a b : Byte) : Byte := if a.toNat ≤ b.toNat then a else b

/-- The larger of two bytes. -/
def maxByte (a b : Byte) : Byte := if a.toNat ≤ b.toNat then b else a

/-- `RgbToRgbwSimple` (R130). -/
def rgbToRgbwSimple (p : Rgb) : Rgbw :=
  let w := minByte (minByte p.red p.green) p.blue
  { red := p.red - w, green := p.green - w, blue := p.blue - w, white := w }

/-- The smaller of two rationals. -/
def minQ (a b : ℚ) : ℚ := if a ≤ b then a else b

/-- The larger of two rationals. -/
def maxQ (a b : ℚ) : ℚ := if a ≤ b then b else a

/-- The rational value of a byte. -/
def byteQ (b : Byte) : ℚ := (b.toNat : ℚ)

/-- L of `RgbToRgbwComplex`: the luminance in the original scale (R131). -/
def complexLuminance (p : Rgb) (mx : Byte) : ℚ :=
  let mult := 255 / byteQ mx
  let hR := byteQ p.red * mult
  let hG := byteQ p.green * mult
  let hB := byteQ p.blue * mult
  let hi := maxQ (maxQ hR hG) hB
  let lo := minQ (minQ hR hG) hB
  ((hi + lo) / 2 - 255 / 2) * (255 / (255 / 2)) / mult

/-- `RgbToRgbwComplex` (R131). -/
def rgbToRgbwComplex (p : Rgb) : Rgbw :=
  let mx := maxByte (maxByte p.red p.green) p.blue
  if mx = 0 then { red := 0, green := 0, blue := 0, white := 0 }
  else
    let l := complexLuminance p mx
    { red := sat8 (trunc (byteQ p.red - l))
      green := sat8 (trunc (byteQ p.green - l))
      blue := sat8 (trunc (byteQ p.blue - l))
      white := sat8 (trunc l) }

/-- `conv`: the RGB→RGBW converter that CFG.CONV selects: 0 is Complex, 1 is Simple (R24, R134). -/
def State.convert (s : State) (p : Rgb) : Rgbw :=
  if s.conf.cfg.conv then rgbToRgbwSimple p else rgbToRgbwComplex p

/-- CONV_HSB2RGB (R140). -/
def execConvHsb2rgb (s : State) : Host.Outcome State Fault Refusal :=
  command s [] (.next (s.setRes (packRgb s.hsbOperand)).succeed)

/-- CONV_RGB2RGBW_SIMPLE (R141). -/
def execConvRgb2rgbwSimple (s : State) : Host.Outcome State Fault Refusal :=
  command s [] (.next (s.setRes (packRgbw (rgbToRgbwSimple (unpackRgb s.opnd.opa)))).succeed)

/-- CONV_RGB2RGBW_COMPLEX (R142). -/
def execConvRgb2rgbwComplex (s : State) : Host.Outcome State Fault Refusal :=
  command s [] (.next (s.setRes (packRgbw (rgbToRgbwComplex (unpackRgb s.opnd.opa)))).succeed)

end Sys2Proof.Machine
end

