-- ==== Sys2Proof/Machine/Serializer.lean ====
section
/-! DEFINITION. The channel serializer (41_serializer.md). -/

namespace Sys2Proof.Machine

/-- A logical channel of a pixel (R150). -/
inductive Channel where
  | red
  | green
  | blue
  | white
  deriving DecidableEq, Repr

/-- A channel's place in a table row. -/
def Channel.column : Channel → Nat
  | .red => 0
  | .green => 1
  | .blue => 2
  | .white => 3

/-- The rows of R151 (CH = 3): off R, off G, off B, by ORDER code. -/
def rgbOrders : List (List Nat) :=
  [[0, 1, 2], [0, 2, 1], [1, 0, 2], [2, 0, 1], [1, 2, 0], [2, 1, 0]]

/-- The rows of R152 (CH = 4): off R, off G, off B, off W, by ORDER code. -/
def rgbwOrders : List (List Nat) :=
  [[0, 1, 2, 3], [0, 1, 3, 2], [0, 2, 1, 3], [0, 3, 1, 2], [0, 2, 3, 1], [0, 3, 2, 1],
   [1, 0, 2, 3], [1, 0, 3, 2], [2, 0, 1, 3], [3, 0, 1, 2], [2, 0, 3, 1], [3, 0, 2, 1]] ++
  [[1, 2, 0, 3], [1, 3, 0, 2], [2, 1, 0, 3], [3, 1, 0, 2], [2, 3, 0, 1], [3, 2, 0, 1],
   [1, 2, 3, 0], [1, 3, 2, 0], [2, 1, 3, 0], [3, 1, 2, 0], [2, 3, 1, 0], [3, 2, 1, 0]]

/-- The row of an ORDER code in the table for CH4; none for an illegal code (R151, R152). -/
def orderRow (ch4 : Bool) (order : BitVec 5) : Option (List Nat) :=
  (if ch4 then rgbwOrders else rgbOrders)[order.toNat]?

/-- `off(ORDER, c)`: the byte offset of a channel in its pixel (R154). -/
def off (ch4 : Bool) (order : BitVec 5) (c : Channel) : Option Nat :=
  match orderRow ch4 order with
  | none => none
  | some row => row[c.column]?

/-- Writes each channel of `px` at `base` + its offset (R155). -/
def writeChannels (m : Memory 8) (base : Nat) : List Nat → List Byte → Memory 8
  | o :: os, v :: vs => writeChannels (m.write (base + o) v) base os vs
  | _, _ => m

/-- `serialize(px, i)`: `px` lists the channels in the order R, G, B[, W] (R155). An ORDER code without a row is the fault
`orderNotInTable` (log 8). STATUS.ERR <- OK ends every command that serializes. -/
def serialize (s : State) (px : List Byte) (i : Nat) : Host.Outcome State Fault Refusal :=
  match orderRow s.conf.cfg.ch4 s.conf.cfg.order with
  | none => .fault .orderNotInTable
  | some row => .next (s.setCbuf (writeChannels s.cbuf (i * s.ch) row px)).succeed

end Sys2Proof.Machine
end

