-- ==== Sys2Proof/Machine/Controller.lean ====
section
/-! DEFINITION. The strip controller's commands but RENDER (43_controller.md). -/

namespace Sys2Proof.Machine

/-- The number of legal ORDER codes: 6 for CH = 3, 24 for CH = 4 (R25, R191). -/
def State.orderCount (s : State) : Nat := if s.ch = 3 then 6 else 24

/-- Fills the first `n` colour bytes with zero (R191, R204). -/
def zeroFill (m : Memory 8) (n : Nat) : Memory 8 := m.writeRange 0 (List.replicate n 0)

/-- CONFIGURE after its local checks: BIND, and what follows from its answer (R191). -/
def State.bindAndConfigure (s : State) : State :=
  if s.bindAnswer then
    (((((s.bind.setCbuf (zeroFill s.cbuf (s.pixels * s.ch))).setPlen 0).setTxs .idle).setConfigured true)).succeed
  else s.bind.raise .config

/-- CONFIGURE (R191). -/
def execConfigure (s : State) : Host.Outcome State Fault Refusal :=
  command s
    [(s.stat.configured, .alreadyConfigured),
     (decide (s.orderCount ≤ s.conf.cfg.order.toNat), .config),
     (decide (s.env.capBytes < s.pixels * s.ch), .config)]
    (.next s.bindAndConfigure)

/-- RELEASE (R195). -/
def execRelease (s : State) : Host.Outcome State Fault Refusal :=
  command s [(!s.stat.configured, .notConfigured)]
    (.next ((((s.send .unbind).setConfigured false).setPlen 0).setTxs .idle).succeed)

/-- The channels an RGB operand stores: its own on an RGB strip, the converted ones on an RGBW strip (R198, R202). -/
def State.storedChannels (s : State) (p : Rgb) : List Byte :=
  if s.ch = 3 then p.channels else (s.convert p).channels

/-- Stores an RGB operand at a pixel (R198, R202). -/
def storeRgb (s : State) (p : Rgb) (index : Nat) : Host.Outcome State Fault Refusal :=
  serialize s (s.storedChannels p) index

/-- SET_RGB (R198). -/
def execSetRgb (index : Nat) (s : State) : Host.Outcome State Fault Refusal :=
  command s [(!s.stat.configured, .notConfigured), (decide (s.pixels ≤ index), .index)]
    (storeRgb s (unpackRgb s.opnd.opa) index)

/-- SET_RGBW (R200). -/
def execSetRgbw (index : Nat) (s : State) : Host.Outcome State Fault Refusal :=
  command s
    [(!s.stat.configured, .notConfigured), (decide (s.ch = 3), .mismatch), (decide (s.pixels ≤ index), .index)]
    (serialize s (unpackRgbw s.opnd.opa).channels index)

/-- SET_HSB (R202). -/
def execSetHsb (index : Nat) (s : State) : Host.Outcome State Fault Refusal :=
  command s [(!s.stat.configured, .notConfigured), (decide (s.pixels ≤ index), .index)]
    (storeRgb s s.hsbOperand index)

/-- CLEAR (R204). -/
def execClear (s : State) : Host.Outcome State Fault Refusal :=
  command s [(!s.stat.configured, .notConfigured)] (.next (s.setCbuf (zeroFill s.cbuf s.live)).succeed)

end Sys2Proof.Machine
end

