-- ==== Sys2Proof/Machine/Render.lean ====
section
/-! DEFINITION. RENDER, the Transmitter's events and the waveform (44_render.md). -/

namespace Sys2Proof.Machine

/-- A pulse descriptor that is high for `h` ticks and then low for `l`: {0, l, 1, h} (R233). -/
def descriptor (h l : Ticks) : Word := (0 : BitVec 1) ++ l ++ (1 : BitVec 1) ++ h

/-- TERM (R234). -/
def term : Word := 0

/-- The descriptor of one data bit (R170, R231). -/
def bitDescriptor (c : Conf) (bit : Bool) : Word :=
  if bit then descriptor c.t1h c.t1l else descriptor c.t0h c.t0l

/-- The concatenation of bytes, the first one most significant (R230). -/
def concatBytes (bs : List Byte) : Nat := bs.foldl (fun acc b => acc * 256 + b.toNat) 0

/-- The CH bytes of pixel `i` in buffer order (R42, R230). -/
def State.pixelBytes (s : State) (i : Nat) : List Byte :=
  (List.range s.ch).map fun k => s.cbuf.read (i * s.ch + k)

/-- `word_i`, of B bits (R230). -/
def State.pixelWord (s : State) (i : Nat) : Nat := concatBytes (s.pixelBytes i)

/-- The bit that descriptor `m = i × B + n` encodes: `word_i[B − 1 − n]` (R231). -/
def State.streamBit (s : State) (m : Nat) : Bool :=
  (s.pixelWord (m / s.bits)).testBit (s.bits - 1 - m % s.bits)

/-- The sequence RENDER builds: one descriptor per bit, most significant bit first, then TERM (R231). -/
def State.sequence (s : State) : List Word :=
  (List.range (s.pixels * s.bits)).map (fun m => bitDescriptor s.conf (s.streamBit m)) ++ [term]

/-- `build()`: writes PBUF[0 .. N×B] and PLEN (R231). -/
def State.build (s : State) : State :=
  (s.setPbuf (s.pbuf.writeRange 0 s.sequence)).setPlen (BitVec.ofNat 32 (s.pixels * s.bits + 1))

/-- RENDER (R236). -/
def execRender (s : State) : Host.Outcome State Fault Refusal :=
  command s [(!s.stat.configured, .notConfigured)]
    (.next ((s.build.setTxs .active).send (.play (s.pixels * s.bits))).succeed)

/-- The Transmitter's DONE and FAIL, enabled only while TXS = ACTIVE (R237). An event that is not enabled "has no step"
(R291): it leaves PXE as it is (log 5). -/
def txEvent (e : TxEvent) (s : State) : State :=
  if s.busy then s.setTxs (match e with | .done => .done | .fail => .failed) else s

/-! ## The waveform (R242, R245) -/

/-- One (level, ticks) segment of the line. -/
abbrev Segment := Bool × Nat

/-- The two segments of a descriptor: level0 for duration0 ticks, then level1 for duration1 (R233, R242). -/
def segments (d : Word) : List Segment :=
  [(d.getLsbD 15, (d.extractLsb' 0 15).toNat), (d.getLsbD 31, (d.extractLsb' 16 15).toNat)]

/-- The observable waveform of a PLAY of `count` descriptors (R245). -/
def State.wave (s : State) (count : Nat) : List Segment :=
  (List.range count).flatMap fun k => segments (s.pbuf.read k)

/-- What reaches the line for a waveform, `nth` being the PLAY's place among the requests: the waveform itself, unless it holds
a zero-tick segment. Then all of it is open, TX_ZERO_DURATION: neither that bit nor any other is taken to be emitted (R177,
R245, R307). Log 19. -/
def emitWave (nth : Nat) (wave : List Segment) : List Segment :=
  if wave.all (fun g => decide (g.2 ≠ 0)) then wave else Config.txZeroDuration nth wave

/-- The line during a PLAY of `count` descriptors, the latest request, that is played to its end (R242, R245). -/
def State.line (s : State) (count : Nat) : List Segment := emitWave s.env.txRequests.length (s.wave count)

end Sys2Proof.Machine
end

