-- ==== Sys2Proof/Machine/Dispatch.lean ====
section
/-! DEFINITION. One arm per command (30_encoding.md R94). -/

namespace Sys2Proof.Machine

def exec (i : Instr) (s : State) : Host.Outcome State Fault Refusal :=
  match i with
  | .configure => Sys2Proof.Machine.execConfigure s
  | .release => Sys2Proof.Machine.execRelease s
  | .setRgb index => Sys2Proof.Machine.execSetRgb index s
  | .setRgbw index => Sys2Proof.Machine.execSetRgbw index s
  | .setHsb index => Sys2Proof.Machine.execSetHsb index s
  | .clear => Sys2Proof.Machine.execClear s
  | .render => Sys2Proof.Machine.execRender s
  | .convHsb2rgb => Sys2Proof.Machine.execConvHsb2rgb s
  | .convRgb2rgbwSimple => Sys2Proof.Machine.execConvRgb2rgbwSimple s
  | .convRgb2rgbwComplex => Sys2Proof.Machine.execConvRgb2rgbwComplex s

end Sys2Proof.Machine
end

