-- ==== Sys2Proof/Machine/Timing.lean ====
section
/-! DEFINITION. The host-side computation of tick counts and the named profiles (42_timing.md). PXE evaluates none of it
(R172). -/

namespace Sys2Proof.Machine

/-- `TicksFromNs(ns, CLOCK_RATE, DIVIDER)`, with DIVIDER ≥ 1 (R172). -/
def ticksFromNs (ns clockRate divider : Nat) : Nat := ns * clockRate / divider / 100

/-- The four tick counts of a profile, before the tick registers truncate them (R174, R175). -/
structure TickTiming where
  t0h : Nat
  t0l : Nat
  t1h : Nat
  t1l : Nat
  deriving DecidableEq, Repr

/-- `PRESET_TICKS` of four nanosecond values (R175). -/
def ticksOfNs (clockRate divider : Nat) (ns : Config.NsTiming) : TickTiming :=
  { t0h := ticksFromNs ns.t0h clockRate divider
    t0l := ticksFromNs ns.t0l clockRate divider
    t1h := ticksFromNs ns.t1h clockRate divider
    t1l := ticksFromNs ns.t1l clockRate divider }

/-- `PRESET_TICKS[p]` with the OPEN parameters (R175). Log 20. -/
def presetTicks (p : Config.Profile) : TickTiming :=
  ticksOfNs Config.clockRate Config.divider (Config.presetNs p)

/-- A tick register keeps bits [14:0] of what the Host writes (R174, R300). -/
def storedTicks (v : Word) : Ticks := v.extractLsb' 0 15

end Sys2Proof.Machine
end

