-- ==== Sys2Proof/Machine/Bus.lean ====
section
/-! DEFINITION. The Host bus: the register map, the two windows, issuing a command (10_state.md R23 to R41, 20_memory.md),
and what one entry of the total order does (R73). -/

namespace Sys2Proof.Machine

/-! ## The address space -/

/-- The registers of the map (R23). -/
inductive Reg where
  | cfg
  | npix
  | t0h
  | t0l
  | t1h
  | t1l
  | txcfg
  | opa
  | oph
  | ops
  | opb
  | cmd
  | status
  | res
  | plen
  deriving DecidableEq, Repr

/-- A register's byte offset (R23). -/
def Reg.offset : Reg → Offset
  | .cfg => 0x000
  | .npix => 0x004
  | .t0h => 0x008
  | .t0l => 0x00C
  | .t1h => 0x010
  | .t1l => 0x014
  | .txcfg => 0x018
  | .opa => 0x020
  | .oph => 0x024
  | .ops => 0x028
  | .opb => 0x02C
  | .cmd => 0x030
  | .status => 0x034
  | .res => 0x038
  | .plen => 0x03C

/-- The register at an offset of the register region; none at a reserved one (R23, R66). -/
def regAt : Nat → Option Reg
  | 0x000 => some .cfg
  | 0x004 => some .npix
  | 0x008 => some .t0h
  | 0x00C => some .t0l
  | 0x010 => some .t1h
  | 0x014 => some .t1l
  | 0x018 => some .txcfg
  | 0x020 => some .opa
  | 0x024 => some .oph
  | 0x028 => some .ops
  | 0x02C => some .opb
  | 0x030 => some .cmd
  | 0x034 => some .status
  | 0x038 => some .res
  | 0x03C => some .plen
  | _ => none

/-- The four regions of the space (R60). -/
inductive Region where
  | registers
  | colour
  | reserved
  | pulse
  deriving DecidableEq, Repr

/-- Where the colour window begins (R60). -/
def colourBase : Nat := 0x010000

/-- Where the pulse window begins (R60). -/
def pulseBase : Nat := 0x200000

/-- The region of an offset (R60). -/
def regionOf (o : Nat) : Region :=
  if o < 0x010000 then .registers
  else if o < 0x020000 then .colour
  else if o < 0x200000 then .reserved
  else .pulse

/-- Allowed widths and alignments: registers 32 bits aligned; windows 8, 16 and 32 bits, naturally aligned (R61). Any other
access is ill-formed. -/
def wellFormedAccess (o n : Nat) : Bool :=
  match regionOf o with
  | .registers => decide (n = 4) && decide (o % 4 = 0)
  | .reserved => false
  | .colour => (decide (n = 1) || decide (n = 2) || decide (n = 4)) && decide (o % n = 0)
  | .pulse => (decide (n = 1) || decide (n = 2) || decide (n = 4)) && decide (o % n = 0)

/-- The bus address of an offset (R60). Log 12. -/
def busAddress (o : Offset) : Nat := Config.base + o.toNat

/-! ## Reads -/

/-- The packed value of CFG; reserved bits read 0 (R24, R30). -/
def Cfg.word (c : Cfg) : Word :=
  (0 : BitVec 19) ++ c.order ++ (0 : BitVec 6) ++ BitVec.ofBool c.conv ++ BitVec.ofBool c.ch4

/-- The packed value of TXCFG; reserved bits read 0 (R28, R30). -/
def TxCfg.word (c : TxCfg) : Word := (0 : BitVec 8) ++ c.div ++ (0 : BitVec 4) ++ c.txch ++ c.pin

/-- The value a Host read of a register returns (R23 to R41). CMD reads 0 (R33). -/
def State.readReg (s : State) : Reg → Word
  | .cfg => s.conf.cfg.word
  | .npix => s.conf.npix.zeroExtend 32
  | .t0h => s.conf.t0h.zeroExtend 32
  | .t0l => s.conf.t0l.zeroExtend 32
  | .t1h => s.conf.t1h.zeroExtend 32
  | .t1l => s.conf.t1l.zeroExtend 32
  | .txcfg => s.conf.txcfg.word
  | .opa => s.opnd.opa
  | .oph => s.opnd.oph
  | .ops => s.opnd.ops
  | .opb => s.opnd.opb
  | .cmd => 0
  | .status => s.statusWord
  | .res => s.res
  | .plen => s.plen

/-- The colour window's byte `a` as read: CBUF[a] below LIVE, else 0 (R63). -/
def State.colourByte (s : State) (a : Nat) : Byte := if a < s.live then s.cbuf.read a else 0

/-- The pulse window's byte `p` as read: bits [8j+7 : 8j] of PBUF[k] below PLEN, else 0, with k = p div 4 and j = p mod 4
(R67). -/
def State.pulseByte (s : State) (p : Nat) : Byte :=
  if p / 4 < s.plen.toNat then (s.pbuf.read (p / 4)).extractLsb' (8 * (p % 4)) 8 else 0

/-- The little-endian value of bytes, the first one at bits [7:0] (R62). -/
def littleEndian : List Byte → Word
  | [] => 0
  | b :: bs => b.zeroExtend 32 ||| (littleEndian bs <<< 8)

/-- What a Host read of `n` bytes at an offset returns (R61 to R67). -/
def State.busRead (s : State) (o : Offset) (n : Nat) : Word :=
  if wellFormedAccess o.toNat n then
    match regionOf o.toNat with
    | .registers =>
      match regAt o.toNat with
      | some r => s.readReg r
      | none => 0
    | .colour => littleEndian ((List.range n).map fun j => s.colourByte (o.toNat - colourBase + j))
    | .reserved => 0
    | .pulse => littleEndian ((List.range n).map fun j => s.pulseByte (o.toNat - pulseBase + j))
  else 0

/-! ## Writes -/

/-- CFG from a written value (R24). -/
def cfgOfWord (v : Word) : Cfg :=
  { ch4 := v.getLsbD 0, conv := v.getLsbD 1, order := v.extractLsb' 8 5 }

/-- TXCFG from a written value (R28). -/
def txCfgOfWord (v : Word) : TxCfg :=
  { pin := v.extractLsb' 0 8, txch := v.extractLsb' 8 4, div := v.extractLsb' 16 8 }

/-- A write to a configuration register: dropped while configured (R29). -/
def State.writeConf (s : State) (c : Conf) : State := if s.stat.configured then s.dropWrite else s.setConf c

/-- A command word written to CMD: BUSY first, then decode, then the command (R90, R261). -/
def issue (w : Word) (s : State) : Host.Outcome State Fault Refusal :=
  if s.busy then .next (s.raise .busy)
  else
    match decode w with
    | .illegal _ => .next (s.raise .illegal)
    | .instr i => exec i s

/-- A 32-bit write to a register (R24 to R41). -/
def writeReg (r : Reg) (v : Word) (s : State) : Host.Outcome State Fault Refusal :=
  match r with
  | .cfg => .next (s.writeConf { s.conf with cfg := cfgOfWord v })
  | .npix => .next (s.writeConf { s.conf with npix := v.extractLsb' 0 16 })
  | .t0h => .next (s.writeConf { s.conf with t0h := storedTicks v })
  | .t0l => .next (s.writeConf { s.conf with t0l := storedTicks v })
  | .t1h => .next (s.writeConf { s.conf with t1h := storedTicks v })
  | .t1l => .next (s.writeConf { s.conf with t1l := storedTicks v })
  | .txcfg => .next (s.writeConf { s.conf with txcfg := txCfgOfWord v })
  | .opa => .next (s.setOpnd { s.opnd with opa := v })
  | .oph => .next (s.setOpnd { s.opnd with oph := v })
  | .ops => .next (s.setOpnd { s.opnd with ops := v })
  | .opb => .next (s.setOpnd { s.opnd with opb := v })
  | .cmd => issue v s
  | .status => .next (s.writeStatus v)
  | .res => .next s.dropWrite
  | .plen => .next s.dropWrite

/-- One byte of a colour-window write: stored below LIVE while not BUSY, else dropped (R64). -/
def State.writeColourByte (s : State) (a : Nat) (b : Byte) : State :=
  if a < s.live ∧ s.busy = false then s.setCbuf (s.cbuf.write a b) else s.dropWrite

/-- A colour-window write, byte by byte (R64). -/
def State.writeColour (s : State) (a : Nat) : List Byte → State
  | [] => s
  | b :: bs => (s.writeColourByte a b).writeColour (a + 1) bs

/-- A Host write of `n` bytes at an offset (R61 to R68). -/
def busWrite (o : Offset) (n : Nat) (v : Word) (s : State) : Host.Outcome State Fault Refusal :=
  if wellFormedAccess o.toNat n then
    match regionOf o.toNat with
    | .registers =>
      match regAt o.toNat with
      | some r => writeReg r v s
      | none => .next s.dropWrite
    | .colour => .next (s.writeColour (o.toNat - colourBase) ((List.range n).map fun j => byteOfWord v j))
    | .reserved => .next s.dropWrite
    | .pulse => .next s.dropWrite
  else .next s.dropWrite

/-! ## One step of the total order -/

/-- A Host access. A read changes nothing of PXE (R70); the data it returns is the output `lastRead` (log 10). -/
def hostAccess (a : Access) (s : State) : Host.Outcome State Fault Refusal :=
  match a with
  | .read o n => .next (s.setEnv { s.env with lastRead := some (s.busRead o n) })
  | .write o n v => busWrite o n v s

/-- The reset input: every register, STATUS field and PLEN at its reset value (R290); no UNBIND is sent (R291). What is not
PXE's stays: the inputs and outputs and CAP_BYTES (log 7). -/
def State.afterReset (s : State) : State := State.reset.setEnv s.env

/-- What one entry of the total order does (R73). -/
def consume (i : Input) (s : State) : Host.Outcome State Fault Refusal :=
  match i with
  | .host a => hostAccess a s
  | .otherHost _ => .refused .secondHost
  | .tx e => .next (txEvent e s)
  | .reset => .next s.afterReset

/-- A state with the given inputs still to come. -/
def State.setInputs (s : State) (is : List Input) : State := s.setEnv { s.env with inputs := is }

end Sys2Proof.Machine
end

