-- ==== Sys2Proof/Machine/Step.lean ====
section
/-! DEFINITION. One step: the next entry of the total order (20_memory.md R73). -/

namespace Sys2Proof.Machine

/-- One step. With no input to come PXE waits (70_reset_and_hazards.md R292): nothing changes (log 2). -/
def step (s : State) : Host.Outcome State Fault Refusal :=
  match s.env.inputs with
  | [] => .next s
  | i :: rest => consume i (s.setInputs rest)

/-- The state with a 32-bit Host write of the word to CMD as its next input, before all others (R90). PXE fetches no
instructions (R77); this is how a command reaches it (log 13). -/
def State.withFetchWord (s : State) (nbits w : Nat) : State :=
  s.setInputs (.host (.write Reg.cmd.offset 4 (BitVec.ofNat 32 (w % 2 ^ nbits))) :: s.env.inputs)

end Sys2Proof.Machine
end

