-- ==== Sys2Proof/Machine/HostProgram.lean ====
section
/-! DEFINITION. The Host as an agent: the Host programs of 30_encoding.md R98, their expansion into single bus accesses, and
the system of a Host, PXE and its Transmitter (00_scope.md R8). None of it is PXE state. -/

namespace Sys2Proof.Machine

/-! ## bits32 (R98) -/

/-- The integer nearest to a non-negative rational, ties to even. -/
def roundTiesEven (x : ℚ) : Int :=
  let n := Rat.floor x
  let rest := x - (n : ℚ)
  if rest < 1 / 2 then n
  else if 1 / 2 < rest then n + 1
  else if n % 2 = 0 then n else n + 1

/-- The integer `l` with `2^l ≤ x < 2^(l+1)`, for a positive `x`. -/
def floorLog2 (x : ℚ) : Int :=
  let guess : Int := (Nat.log2 x.num.natAbs : Int) - (Nat.log2 x.den : Int)
  if x < pow2 guess then guess - 1 else guess

/-- The binary32 pattern nearest to a positive rational, ties to even. From the overflow threshold on it is
the infinity pattern: R98 says only "nearest", and this is the model's choice, PRESUMED from IEEE 754. Log 18. -/
def bits32Pos (x : ℚ) : Nat :=
  let k := max (floorLog2 x - 23) (-149)
  let m := roundTiesEven (x * pow2 (-k))
  min ((k + 149) * 2 ^ 23 + m).toNat 0x7F800000

/-- `bits32(x)`: the binary32 pattern nearest to `x`, ties to even (R98; PRESUMED by the spec itself, K2). -/
def bits32 (x : ℚ) : Word :=
  if x = 0 then 0
  else if 0 < x then BitVec.ofNat 32 (bits32Pos x)
  else BitVec.ofNat 32 (0x80000000 + bits32Pos (-x))

/-- A decimal literal: its sign, its digits read as one number, and how many of them stand after the point. -/
structure Decimal where
  neg : Bool
  digits : Nat
  places : Nat
  deriving DecidableEq, Repr

/-- The literal's value. -/
def Decimal.value (d : Decimal) : ℚ :=
  let magnitude : ℚ := (d.digits : ℚ) / ((10 ^ d.places : Nat) : ℚ)
  if d.neg then -magnitude else magnitude

/-- `bits32` of a decimal literal (R98): −0 keeps its sign, as the OPS pattern 0x80000000 of 95_test_vectors.md V1.1 has it. -/
def Decimal.bits32 (d : Decimal) : Word :=
  if d.digits = 0 then (if d.neg then 0x80000000 else 0) else Machine.bits32 d.value

/-! ## Expressions over Host variables -/

/-- The two windows by name (R98). -/
inductive Win where
  | color
  | pulse
  deriving DecidableEq, Repr

/-- Where a window begins (R60). -/
def Win.base : Win → Nat
  | .color => colourBase
  | .pulse => pulseBase

/-- How many bytes a window has (R60). -/
def Win.size : Win → Nat
  | .color => 0x10000
  | .pulse => 0x200000

/-- The offset of byte `a` of a window; none outside it (log 18). -/
def Win.offset (w : Win) (a : Int) : Option Offset :=
  if 0 ≤ a ∧ a < w.size then some (BitVec.ofNat 22 (w.base + a.toNat)) else none

/-- A Host expression "in + − × div and shifts" (R98), with the bit slices, `|`, `bits32` and index range check that the
forms of R98 use. A variable is a number. -/
inductive Expr where
  | lit (v : Int)
  | var (t : Nat)
  | add (a b : Expr)
  | sub (a b : Expr)
  | mul (a b : Expr)
  | div (a b : Expr)
  | shl (a b : Expr)
  | shr (a b : Expr)
  | or (a b : Expr)
  | slice (e : Expr) (hi lo : Nat)
  | bits32 (e : Expr)
  | index (e : Expr)
  deriving DecidableEq, Repr

/-- The Host's variables. -/
abbrev Vars := List (Nat × Int)

/-- A variable's latest value. -/
def Vars.get : Vars → Nat → Option Int
  | [], _ => none
  | (u, v) :: rest, t => if t = u then some v else Vars.get rest t

/-- A value modulo 2^32, as an access uses it (R98); `|` and the bit slices read their operands so too (log 18). -/
def wordOfInt (v : Int) : Word := BitVec.ofInt 32 v

/-- An expression's value; none for an unset variable, a div by zero or of a negative number, a negative shift, and a CI
index outside 0 to 65535: R98 gives those no value. A right shift is the floor of a division by a power of 2, of a negative
value too: R98 says only "shifts", and this is the model's DESIGN CHOICE. Log 18. -/
def Expr.eval (vars : Vars) : Expr → Option Int
  | .lit v => some v
  | .var t => vars.get t
  | .add a b => (a.eval vars).bind fun x => (b.eval vars).map fun y => x + y
  | .sub a b => (a.eval vars).bind fun x => (b.eval vars).map fun y => x - y
  | .mul a b => (a.eval vars).bind fun x => (b.eval vars).map fun y => x * y
  | .div a b => (a.eval vars).bind fun x => (b.eval vars).bind fun y =>
      if 0 ≤ x ∧ 0 < y then some (x / y) else none
  | .shl a b => (a.eval vars).bind fun x => (b.eval vars).bind fun y =>
      if 0 ≤ y then some (x * 2 ^ y.toNat) else none
  | .shr a b => (a.eval vars).bind fun x => (b.eval vars).bind fun y =>
      if 0 ≤ y then some (x / 2 ^ y.toNat) else none
  | .or a b => (a.eval vars).bind fun x => (b.eval vars).map fun y =>
      ((wordOfInt x ||| wordOfInt y).toNat : Int)
  | .slice e hi lo => (e.eval vars).map fun x =>
      (((wordOfInt x).toNat / 2 ^ lo % 2 ^ (hi + 1 - lo) : Nat) : Int)
  | .bits32 e => (e.eval vars).map fun x => ((Machine.bits32 (x : ℚ)).toNat : Int)
  | .index e => (e.eval vars).bind fun x => if 0 ≤ x ∧ x < 65536 then some x else none

/-- The condition of an `if … goto`: one comparison of two expressions. R98 does not say which conditions there are; these six
are the model's DESIGN CHOICE. Log 18. -/
inductive Cond where
  | eq (a b : Expr)
  | ne (a b : Expr)
  | lt (a b : Expr)
  | le (a b : Expr)
  | gt (a b : Expr)
  | ge (a b : Expr)
  deriving DecidableEq, Repr

/-- Whether a condition holds; none where a side has no value. -/
def Cond.eval (vars : Vars) : Cond → Option Bool
  | .eq a b => (a.eval vars).bind fun x => (b.eval vars).map fun y => decide (x = y)
  | .ne a b => (a.eval vars).bind fun x => (b.eval vars).map fun y => decide (x ≠ y)
  | .lt a b => (a.eval vars).bind fun x => (b.eval vars).map fun y => decide (x < y)
  | .le a b => (a.eval vars).bind fun x => (b.eval vars).map fun y => decide (x ≤ y)
  | .gt a b => (a.eval vars).bind fun x => (b.eval vars).map fun y => decide (y < x)
  | .ge a b => (a.eval vars).bind fun x => (b.eval vars).map fun y => decide (y ≤ x)

/-! ## The forms of R98 -/

/-- A line that is one bus access or Host control flow. Widths are in bytes: WR and RD 4, WRH and RDH 2, WRB and RDB 1. That
WRH, WRB, RDH and RDB may name a register is the model's DESIGN CHOICE, after the `WRB CMD, 0x20` of 95_test_vectors.md 2.7:
the table of R98 shows them at a window. Such an access is ill-formed (R61, R65). Log 18. -/
inductive Basic where
  | wr (n : Nat) (r : Reg) (e : Expr)
  | wrWin (n : Nat) (w : Win) (a e : Expr)
  | rd (n : Nat) (r : Reg) (t : Nat)
  | rdWin (n : Nat) (w : Win) (a : Expr) (t : Nat)
  | label (l : Nat)
  | ifGoto (c : Cond) (l : Nat)
  | assign (t : Nat) (e : Expr)
  deriving DecidableEq, Repr

/-- A CN command's name. -/
inductive CnName where
  | configure
  | release
  | clear
  | render
  | convHsb2rgb
  | convRgb2rgbwSimple
  | convRgb2rgbwComplex
  deriving DecidableEq, Repr

/-- The CN command. -/
def CnName.instr : CnName → Instr
  | .configure => .configure
  | .release => .release
  | .clear => .clear
  | .render => .render
  | .convHsb2rgb => .convHsb2rgb
  | .convRgb2rgbwSimple => .convRgb2rgbwSimple
  | .convRgb2rgbwComplex => .convRgb2rgbwComplex

/-- A CI command's name. -/
inductive CiName where
  | setRgb
  | setRgbw
  | setHsb
  deriving DecidableEq, Repr

/-- The CI command with an index. -/
def CiName.instr : CiName → Nat → Instr
  | .setRgb => .setRgb
  | .setRgbw => .setRgbw
  | .setHsb => .setHsb

/-- An operand of SETHSB: a decimal literal or an integer-valued expression (R98). -/
inductive HsbNum where
  | dec (d : Decimal)
  | int (e : Expr)
  deriving DecidableEq, Repr

/-- The expression SETHSB writes for an operand: its `bits32`. -/
def HsbNum.expr : HsbNum → Expr
  | .dec d => .lit (d.bits32.toNat : Int)
  | .int e => .bits32 e

/-- A line of a Host program (R98). -/
inductive Line where
  | basic (b : Basic)
  | ci (c : CiName) (index : Expr)
  | cn (c : CnName)
  /-- `SETOPA r, g, b [, w]`. -/
  | setOpa (r g b : Expr) (w : Option Expr)
  | setHsb (h s v : HsbNum)
  /-- POLL_IDLE with its label and its variable. -/
  | pollIdle (l t : Nat)
  /-- A comment that records the Transmitter's step or answer. -/
  | note
  deriving DecidableEq, Repr

/-- The expansion of each form (R98). -/
def Line.expand : Line → List Basic
  | .basic b => [b]
  | .ci c e => [.wr 4 .cmd (.or (.lit ((encode (c.instr 0)).toNat : Int)) (.index e))]
  | .cn c => [.wr 4 .cmd (.lit ((encode c.instr).toNat : Int))]
  | .setOpa r g b w =>
      [.wr 4 .opa (.or (.or (.or (.shl (w.getD (.lit 0)) (.lit 24)) (.shl r (.lit 16))) (.shl g (.lit 8))) b)]
  | .setHsb h s v => [.wr 4 .oph h.expr, .wr 4 .ops s.expr, .wr 4 .opb v.expr]
  | .pollIdle l t => [.label l, .rd 4 .status t, .ifGoto (.eq (.slice (.var t) 0 0) (.lit 1)) l]
  | .note => []

/-- The lines of a program, expanded. -/
def expandProgram (p : List Line) : List Basic := p.flatMap Line.expand

/-! ## The system -/

/-- The Host: its program, its position in it and its variables. -/
structure HostAgent where
  program : List Basic
  pos : Nat
  vars : Vars
  deriving DecidableEq, Repr

/-- The position of a label; of one that stands more than once, the first: R98 is silent there, and this is the model's
DESIGN CHOICE. Two POLL_IDLE lines loop each on its own only with labels of their own. Log 18. -/
def labelPos : List Basic → Nat → Option Nat
  | [], _ => none
  | b :: rest, l => if b = .label l then some 0 else (labelPos rest l).map (· + 1)

/-- The access a line makes, if it is one. -/
def Basic.access (vars : Vars) : Basic → Option Access
  | .wr n r e => (e.eval vars).map fun v => .write r.offset n (wordOfInt v)
  | .wrWin n w a e => ((a.eval vars).bind w.offset).bind fun o => (e.eval vars).map fun v =>
      .write o n (wordOfInt v)
  | .rd n r _ => some (.read r.offset n)
  | .rdWin n w a _ => ((a.eval vars).bind w.offset).map fun o => .read o n
  | .label _ => none
  | .ifGoto _ _ => none
  | .assign _ _ => none

/-- The variable a line reads into. -/
def Basic.target : Basic → Option Nat
  | .rd _ _ t => some t
  | .rdWin _ _ _ t => some t
  | .wr _ _ _ => none
  | .wrWin _ _ _ _ => none
  | .label _ => none
  | .ifGoto _ _ => none
  | .assign _ _ => none

/-- The Host after its line: a read's data goes to its variable. -/
def HostAgent.advance (h : HostAgent) (b : Basic) (data : Option Word) : HostAgent :=
  match b.target, data with
  | some t, some w => { h with pos := h.pos + 1, vars := (t, (w.toNat : Int)) :: h.vars }
  | _, _ => { h with pos := h.pos + 1 }

/-- One line of the Host. None: the program has ended, the line has no meaning, or PXE stopped. -/
def hostLine (h : HostAgent) (s : State) : Option (HostAgent × State) :=
  match h.program[h.pos]? with
  | none => none
  | some (.label _) => some ({ h with pos := h.pos + 1 }, s)
  | some (.assign t e) => (e.eval h.vars).map fun v => ({ h with pos := h.pos + 1, vars := (t, v) :: h.vars }, s)
  | some (.ifGoto c l) =>
    match c.eval h.vars with
    | none => none
    | some false => some ({ h with pos := h.pos + 1 }, s)
    | some true => (labelPos h.program l).map fun p => ({ h with pos := p }, s)
  | some b =>
    match b.access h.vars with
    | none => none
    | some a =>
      match step (s.setInputs (.host a :: s.env.inputs)) with
      | .next t => some (h.advance b t.env.lastRead, t)
      | .fault _ => none
      | .refused _ => none

/-- Which agent takes the next step (R73): the Host its next line, the Transmitter an event, or the reset input. -/
inductive Move where
  | host
  | tx (e : TxEvent)
  | reset
  deriving DecidableEq, Repr

/-- One step of the system of a Host and PXE. -/
def systemStep (m : Move) (h : HostAgent) (s : State) : Option (HostAgent × State) :=
  match m with
  | .host => hostLine h s
  | .tx e => some (h, txEvent e s)
  | .reset => some (h, s.afterReset)

/-- The steps of the system in a given order. -/
def systemRun : List Move → HostAgent → State → Option (HostAgent × State)
  | [], h, s => some (h, s)
  | m :: ms, h, s => (systemStep m h s).bind fun p => systemRun ms p.1 p.2

end Sys2Proof.Machine
end

