-- ==== Sys2Proof/Safety.lean ====
section
/-! DEFINITION. What holds of PXE in every run from reset, and what a safe step is, in the terms the claims use. -/

namespace Sys2Proof.Machine

/-- PCAP, the pulse buffer's capacity in descriptors (00_scope.md R9). -/
def State.pcap (s : State) : Nat := 8 * s.env.capBytes + 1

/-- The invariant of PXE. -/
structure Inv (s : State) : Prop where
  /-- The colour buffer is in its canonical form. -/
  cbuf_wf : Memory.wf s.cbuf = true
  /-- The pulse buffer is in its canonical form. -/
  pbuf_wf : Memory.wf s.pbuf = true
  /-- CAP_BYTES is in its range (R9). -/
  capacity : 1 ≤ s.env.capBytes ∧ s.env.capBytes ≤ 65535
  /-- The colour buffer has indices 0 to CAP_BYTES − 1 (R42). -/
  cbuf_in : ∀ c ∈ s.cbuf, c.1 < s.env.capBytes
  /-- The pulse buffer has indices 0 to PCAP − 1 (R43). -/
  pbuf_in : ∀ c ∈ s.pbuf, c.1 < s.pcap
  /-- While configured, ORDER is legal for CH and the strip fits (R191 and R29). -/
  config : s.stat.configured = true →
    s.conf.cfg.order.toNat < s.orderCount ∧ s.pixels * s.ch ≤ s.env.capBytes
  /-- TXS is IDLE whenever PXE is unconfigured (R38, R195). -/
  unconfigured_idle : s.stat.configured = false → s.stat.txs = .idle
  /-- TXS = IDLE goes with an empty pulse window (R38, R41). -/
  idle_plen : s.stat.txs = .idle → s.plen = 0
  /-- After a RENDER, PLEN counts its bits and the terminator (R235). -/
  rendered_plen : s.stat.txs ≠ .idle → s.plen.toNat = s.pixels * s.bits + 1
  /-- After a RENDER, every descriptor below the last is a 0 bit or a 1 bit (R231). -/
  rendered_bits : s.stat.txs ≠ .idle → ∀ k, k + 1 < s.plen.toNat →
    s.pbuf.read k = bitDescriptor s.conf false ∨ s.pbuf.read k = bitDescriptor s.conf true
  /-- After a RENDER, the last valid descriptor is TERM (R235). -/
  rendered_term : s.stat.txs ≠ .idle → s.pbuf.read (s.pixels * s.bits) = term
  /-- During a transmission PBUF is still the sequence of the colour buffer as it stands (R47, R79). -/
  in_flight : s.stat.txs = .active → ∀ m, m < s.pixels * s.bits →
    s.pbuf.read m = bitDescriptor s.conf (s.streamBit m)

/-- A safe outcome of a step: PXE goes on, or the step met an access by a second Host and was refused for it (R71, R275). -/
def SafeOutcome (s : State) : Host.Outcome State Fault Refusal → Prop
  | .next _ => True
  | .fault _ => False
  | .refused r => r = .secondHost ∧ ∃ a rest, s.env.inputs = .otherHost a :: rest

/-- Two states that no rule tells apart: they differ at most in colour bytes at or beyond LIVE and in descriptors at or beyond
PLEN (R44). -/
structure SameObservable (s t : State) : Prop where
  conf : s.conf = t.conf
  opnd : s.opnd = t.opnd
  stat : s.stat = t.stat
  res : s.res = t.res
  plen : s.plen = t.plen
  env : s.env = t.env
  live : ∀ a, a < s.live → s.cbuf.read a = t.cbuf.read a
  valid : ∀ k, k < s.plen.toNat → s.pbuf.read k = t.pbuf.read k

/-- Two states that differ at most in CBUF and STATUS.ERR: what a SET command or CLEAR may change (R208). -/
structure OnlyPixelsChange (s t : State) : Prop where
  conf : t.conf = s.conf
  opnd : t.opnd = s.opnd
  configured : t.stat.configured = s.stat.configured
  wdrop : t.stat.wdrop = s.stat.wdrop
  txs : t.stat.txs = s.stat.txs
  res : t.res = s.res
  plen : t.plen = s.plen
  pbuf : t.pbuf = s.pbuf
  env : t.env = s.env

/-- Two states that differ at most in RES and STATUS.ERR: what a CONV command may change (R40). -/
structure OnlyResultChanges (s t : State) : Prop where
  conf : t.conf = s.conf
  opnd : t.opnd = s.opnd
  configured : t.stat.configured = s.stat.configured
  wdrop : t.stat.wdrop = s.stat.wdrop
  txs : t.stat.txs = s.stat.txs
  plen : t.plen = s.plen
  cbuf : t.cbuf = s.cbuf
  pbuf : t.pbuf = s.pbuf
  env : t.env = s.env

/-- In `t`, each channel of pixel `n` stands at its byte `n × CH + off(ORDER, c)`, for the CH and ORDER of `s` (R155). -/
def PixelStored (s t : State) (n : Nat) (red green blue : Byte) (white : Option Byte) : Prop :=
  (∀ o, off s.conf.cfg.ch4 s.conf.cfg.order .red = some o → t.cbuf.read (n * s.ch + o) = red) ∧
  (∀ o, off s.conf.cfg.ch4 s.conf.cfg.order .green = some o → t.cbuf.read (n * s.ch + o) = green) ∧
  (∀ o, off s.conf.cfg.ch4 s.conf.cfg.order .blue = some o → t.cbuf.read (n * s.ch + o) = blue) ∧
  (∀ o, off s.conf.cfg.ch4 s.conf.cfg.order .white = some o → some (t.cbuf.read (n * s.ch + o)) = white)

/-- Every colour byte outside pixel `n` reads in `t` as it does in `s` (R208). -/
def OtherPixelsKept (s t : State) (n : Nat) : Prop :=
  ∀ a, a < n * s.ch ∨ n * s.ch + s.ch ≤ a → t.cbuf.read a = s.cbuf.read a

/-- The next step of `s` is a 32-bit Host write to CMD of a word that decodes to `i` (R90). -/
def NextCommand (s : State) (i : Instr) : Prop :=
  ∃ w rest, s.env.inputs = .host (.write Reg.cmd.offset 4 w) :: rest ∧ decode w = .instr i

/-- The next step of `s` is a 32-bit Host write to CMD (R90). -/
def NextCmdWrite (s : State) : Prop :=
  ∃ w rest, s.env.inputs = .host (.write Reg.cmd.offset 4 w) :: rest

/-- The next step of `s` is the reset input (R290). -/
def NextReset (s : State) : Prop := ∃ rest, s.env.inputs = .reset :: rest

/-- The bits of a register that a Host write can set and a read returns: its fields (R24 to R32). -/
def Reg.mask : Reg → Word
  | .cfg => 0x00001F03
  | .npix => 0x0000FFFF
  | .t0h => 0x00007FFF
  | .t0l => 0x00007FFF
  | .t1h => 0x00007FFF
  | .t1l => 0x00007FFF
  | .txcfg => 0x00FF0FFF
  | .opa => 0xFFFFFFFF
  | .oph => 0xFFFFFFFF
  | .ops => 0xFFFFFFFF
  | .opb => 0xFFFFFFFF
  | .cmd => 0
  | .status => 0
  | .res => 0
  | .plen => 0

/-- The configuration registers (R29). -/
def Reg.isConf : Reg → Bool
  | .cfg | .npix | .t0h | .t0l | .t1h | .t1l | .txcfg => true
  | .opa | .oph | .ops | .opb | .cmd | .status | .res | .plen => false

/-- The operand registers (R31, R32). -/
def Reg.isOperand : Reg → Bool
  | .opa | .oph | .ops | .opb => true
  | .cfg | .npix | .t0h | .t0l | .t1h | .t1l | .txcfg | .cmd | .status | .res | .plen => false

end Sys2Proof.Machine
end

