-- ==== Sys2Proof/Certificates/Slice0/Obligations.lean ====
section
/-! DEFINITION. The statements about PXE, for the provers. Each cites in OBLIGATIONS.json the rules it formalises. -/

open Sys2Proof
open Sys2Proof.Machine

/-! ## Encoding -/

/-- Decoding an encoded well-formed command gives it back, for every command and every index (R90, R94, R95). -/
def Obligations.EncodeThenDecodeIsIdentity : Prop :=
  ∀ i : Instr, i.wellFormed = true → decode (encode i) = .instr i

/-- A word that decodes to a command is that command's encoding, so each command has one word (R90, R94, R95). -/
def Obligations.DecodedWordIsItsEncoding : Prop :=
  ∀ (w : Word) (i : Instr), decode w = .instr i → i.wellFormed = true ∧ encode i = w

/-- The worked encodings of R99. -/
def Obligations.WorkedEncodings : Prop :=
  encode (.setRgb 5) = 0x10000005 ∧ decode 0x10000005 = .instr (.setRgb 5) ∧
  encode (.setHsb 9) = 0x12000009 ∧ decode 0x12000009 = .instr (.setHsb 9) ∧
  encode .render = 0x20000000 ∧ decode 0x20000000 = .instr .render ∧
  encode .configure = 0x01000000 ∧ decode 0x01000000 = .instr .configure ∧
  rsvField 0x10010005 = 0x01 ∧ decode 0x10010005 = .illegal .rsvNotZero ∧
  decode 0x20000001 = .illegal .fieldNotZero

/-- The illegal words are those R96 names, the all-zero word among them; writing one while BUSY = 0 raises ERR_ILLEGAL and
changes nothing except STATUS.ERR. -/
def Obligations.IllegalWordsAreThoseNamed : Prop :=
  (∀ w : Word, (∃ x, decode w = .illegal x) ↔
    ((opcField w).toNat ∉ [0x01, 0x02, 0x10, 0x11, 0x12, 0x18, 0x20, 0x30, 0x31, 0x32] ∨
     ((opcField w).toNat ∈ [0x10, 0x11, 0x12] ∧ rsvField w ≠ 0) ∨
     ((opcField w).toNat ∈ [0x01, 0x02, 0x18, 0x20, 0x30, 0x31, 0x32] ∧ cnField w ≠ 0))) ∧
  ((List.range 256).filter
    (fun o => o ∉ [0x01, 0x02, 0x10, 0x11, 0x12, 0x18, 0x20, 0x30, 0x31, 0x32])).length = 246 ∧
  (∃ x, decode 0 = .illegal x) ∧
  (∀ (w : Word) (x : Illegal) (s : State), decode w = .illegal x → s.busy = false →
    hostAccess (.write Reg.cmd.offset 4 w) s = .next (s.setErr .illegal))

/-! ## The step -/

/-- When the next input is a CMD write of a word that decodes to `i`, the step is exec of `i` at the state with that input
taken (R69, R90). -/
def Obligations.StepRunsTheDecodedCommand : Prop :=
  ∀ (s : State) (w : Word) (rest : List Input) (i : Instr),
    s.env.inputs = .host (.write Reg.cmd.offset 4 w) :: rest → decode w = .instr i →
    step s = exec i { s with env := { s.env with inputs := rest } }

/-- A table word placed by withFetchWord is the one the very next step runs, at the state it was placed in. -/
def Obligations.PlacedWordRunsNext : Prop :=
  ∀ (s : State) (nbits w : Nat) (i : Instr), decodeTableWord nbits w = some i → step (s.withFetchWord nbits w) = exec i s

/-- What every other next input does: with none PXE waits (the model's own reading, log 2), a second Host is refused (R275), a
Host access, a Transmitter event and the reset each take one step. -/
def Obligations.StepTakesOneInput : Prop :=
  (∀ s : State, s.env.inputs = [] → step s = .next s) ∧
  (∀ (s : State) (a : Access) (rest : List Input), s.env.inputs = .otherHost a :: rest → step s = .refused .secondHost) ∧
  (∀ (s : State) (a : Access) (rest : List Input), s.env.inputs = .host a :: rest →
    step s = hostAccess a { s with env := { s.env with inputs := rest } }) ∧
  (∀ (s : State) (e : TxEvent) (rest : List Input), s.env.inputs = .tx e :: rest →
    step s = .next (txEvent e { s with env := { s.env with inputs := rest } })) ∧
  (∀ (s : State) (rest : List Input), s.env.inputs = .reset :: rest →
    step s = .next (State.afterReset { s with env := { s.env with inputs := rest } }))

/-! ## Errors -/

/-- A command that reports an error has changed nothing but STATUS.ERR; a refused BIND has been sent and answered (R263). -/
def Obligations.FailedCommandChangesOnlyErr : Prop :=
  ∀ (i : Instr) (s t : State), exec i s = .next t → t.stat.err ≠ .ok →
    t.conf = s.conf ∧ t.opnd = s.opnd ∧ t.stat.configured = s.stat.configured ∧ t.stat.wdrop = s.stat.wdrop ∧
    t.stat.txs = s.stat.txs ∧ t.res = s.res ∧ t.plen = s.plen ∧ t.cbuf = s.cbuf ∧ t.pbuf = s.pbuf ∧
    (t.env = s.env ∨
      (i = .configure ∧ s.bindAnswer = false ∧ t.stat.err = .config ∧
       t.env = { s.env with
         bindAnswers := s.env.bindAnswers.tail
         bindDraws := s.env.bindDraws + 1
         txRequests := .bind s.conf.txcfg :: s.env.txRequests }))

/-- While BUSY, any word written to CMD, illegal ones too, gives ERR_BUSY and changes nothing else (R261). -/
def Obligations.BusyRefusesEveryWord : Prop :=
  (∀ (w : Word) (s : State), s.busy = true → hostAccess (.write Reg.cmd.offset 4 w) s = .next (s.setErr .busy)) ∧
  (∀ (i : Instr) (s : State), s.busy = true → exec i s = .next (s.setErr .busy))

/-- Which error each command raises, in the order of the checks: configuration state, then strip type, then index, then the
CONFIGURE checks (R260, R261). -/
def Obligations.EachCheckRaisesItsError : Prop :=
  ∀ s : State, s.busy = false →
    (s.stat.configured = false →
      exec .release s = .next (s.setErr .notConfigured) ∧
      (∀ n, exec (.setRgb n) s = .next (s.setErr .notConfigured)) ∧
      (∀ n, exec (.setRgbw n) s = .next (s.setErr .notConfigured)) ∧
      (∀ n, exec (.setHsb n) s = .next (s.setErr .notConfigured)) ∧
      exec .clear s = .next (s.setErr .notConfigured) ∧
      exec .render s = .next (s.setErr .notConfigured)) ∧
    (s.stat.configured = true →
      exec .configure s = .next (s.setErr .alreadyConfigured) ∧
      (s.conf.cfg.ch4 = false → ∀ n, exec (.setRgbw n) s = .next (s.setErr .mismatch)) ∧
      (∀ n, s.pixels ≤ n →
        exec (.setRgb n) s = .next (s.setErr .index) ∧
        (s.conf.cfg.ch4 = true → exec (.setRgbw n) s = .next (s.setErr .index)) ∧
        exec (.setHsb n) s = .next (s.setErr .index))) ∧
    (s.stat.configured = false →
      (s.conf.cfg.ch4 = false ∧ 6 ≤ s.conf.cfg.order.toNat → exec .configure s = .next (s.setErr .config)) ∧
      (s.conf.cfg.ch4 = true ∧ 24 ≤ s.conf.cfg.order.toNat → exec .configure s = .next (s.setErr .config)) ∧
      (s.env.capBytes < s.pixels * s.ch → exec .configure s = .next (s.setErr .config)))

/-! ## The controller's commands -/

/-- CONFIGURE with a legal ORDER, a strip that fits and a BIND answered ok: it binds with TXCFG's fields, zeroes the live
colour buffer, and leaves PXE configured and idle; it changes nothing else (R191). -/
def Obligations.ConfigureBindsAndZeroes : Prop :=
  ∀ s : State, s.busy = false → s.stat.configured = false → s.conf.cfg.order.toNat < (if s.ch = 3 then 6 else 24) →
    s.pixels * s.ch ≤ s.env.capBytes → s.bindAnswer = true →
    ∃ t, exec .configure s = .next t ∧
      t.stat = { s.stat with configured := true, txs := .idle, err := .ok } ∧ t.plen = 0 ∧
      t.live = s.pixels * s.ch ∧
      (∀ a, a < s.pixels * s.ch → t.cbuf.read a = 0) ∧
      (∀ a, s.pixels * s.ch ≤ a → t.cbuf.read a = s.cbuf.read a) ∧
      t.conf = s.conf ∧ t.opnd = s.opnd ∧ t.res = s.res ∧ t.pbuf = s.pbuf ∧
      t.env = { s.env with
        bindAnswers := s.env.bindAnswers.tail
        bindDraws := s.env.bindDraws + 1
        txRequests := .bind s.conf.txcfg :: s.env.txRequests }

/-- CONFIGURE whose BIND is answered error raises ERR_CONFIG and leaves PXE as it was; the BIND has been sent (R191, R263). -/
def Obligations.RefusedBindLeavesUnconfigured : Prop :=
  ∀ s : State, s.busy = false → s.stat.configured = false → s.conf.cfg.order.toNat < (if s.ch = 3 then 6 else 24) →
    s.pixels * s.ch ≤ s.env.capBytes → s.bindAnswer = false →
    exec .configure s = .next
      { s with
        stat := { s.stat with err := .config }
        env := { s.env with
          bindAnswers := s.env.bindAnswers.tail
          bindDraws := s.env.bindDraws + 1
          txRequests := .bind s.conf.txcfg :: s.env.txRequests } }

/-- RELEASE sends UNBIND, clears CONFIGURED and PLEN, sets TXS to IDLE, and keeps the staged registers and all else (R195). -/
def Obligations.ReleaseUnbinds : Prop :=
  ∀ s : State, s.busy = false → s.stat.configured = true →
    ∃ t, exec .release s = .next t ∧
      t.stat = { s.stat with configured := false, txs := .idle, err := .ok } ∧ t.plen = 0 ∧ t.live = 0 ∧
      t.conf = s.conf ∧ t.opnd = s.opnd ∧ t.res = s.res ∧ t.cbuf = s.cbuf ∧ t.pbuf = s.pbuf ∧
      t.env = { s.env with txRequests := .unbind :: s.env.txRequests }

/-- SET_RGB stores OPA's R, G and B at the channel offsets of the pixel, on an RGBW strip after the converter that CFG.CONV
selects, and changes nothing else (R134, R198). -/
def Obligations.SetRgbStoresThePixel : Prop :=
  ∀ (s : State) (n : Nat), s.busy = false → s.stat.configured = true → s.conf.cfg.order.toNat < s.orderCount →
    n < s.pixels →
    ∃ t, exec (.setRgb n) s = .next t ∧ t.stat.err = .ok ∧ OnlyPixelsChange s t ∧ OtherPixelsKept s t n ∧
      (s.conf.cfg.ch4 = false →
        PixelStored s t n (s.opnd.opa.extractLsb' 16 8) (s.opnd.opa.extractLsb' 8 8) (s.opnd.opa.extractLsb' 0 8) none) ∧
      (s.conf.cfg.ch4 = true →
        ∀ (rgb : Rgb) (p : Rgbw),
          rgb = ⟨s.opnd.opa.extractLsb' 16 8, s.opnd.opa.extractLsb' 8 8, s.opnd.opa.extractLsb' 0 8⟩ →
          (s.conf.cfg.conv = true → p = rgbToRgbwSimple rgb) → (s.conf.cfg.conv = false → p = rgbToRgbwComplex rgb) →
          PixelStored s t n p.red p.green p.blue (some p.white))

/-- SET_RGBW stores OPA's R, G, B and W, whatever W is, and changes nothing else (R200). -/
def Obligations.SetRgbwStoresThePixel : Prop :=
  ∀ (s : State) (n : Nat), s.busy = false → s.stat.configured = true → s.conf.cfg.ch4 = true →
    s.conf.cfg.order.toNat < 24 → n < s.pixels →
    ∃ t, exec (.setRgbw n) s = .next t ∧ t.stat.err = .ok ∧ OnlyPixelsChange s t ∧ OtherPixelsKept s t n ∧
      PixelStored s t n (s.opnd.opa.extractLsb' 16 8) (s.opnd.opa.extractLsb' 8 8) (s.opnd.opa.extractLsb' 0 8)
        (some (s.opnd.opa.extractLsb' 24 8))

/-- SET_HSB stores HsbToRgb of the operand registers, on an RGBW strip after the converter that CFG.CONV selects, and changes
nothing else; a non-finite operand stores black (R121, R134, R202). -/
def Obligations.SetHsbStoresThePixel : Prop :=
  ∀ (s : State) (n : Nat), s.busy = false → s.stat.configured = true → s.conf.cfg.order.toNat < s.orderCount →
    n < s.pixels →
    ∃ t, exec (.setHsb n) s = .next t ∧ t.stat.err = .ok ∧ OnlyPixelsChange s t ∧ OtherPixelsKept s t n ∧
      ∀ rgb : Rgb,
        (∀ h x v, f32val s.opnd.oph = some h → f32val s.opnd.ops = some x → f32val s.opnd.opb = some v →
          rgb = hsbToRgb h x v) →
        ((f32val s.opnd.oph = none ∨ f32val s.opnd.ops = none ∨ f32val s.opnd.opb = none) → rgb = ⟨0, 0, 0⟩) →
        (s.conf.cfg.ch4 = false → PixelStored s t n rgb.red rgb.green rgb.blue none) ∧
        (s.conf.cfg.ch4 = true → ∀ p : Rgbw,
          (s.conf.cfg.conv = true → p = rgbToRgbwSimple rgb) → (s.conf.cfg.conv = false → p = rgbToRgbwComplex rgb) →
          PixelStored s t n p.red p.green p.blue (some p.white))

/-- CLEAR zeroes the live colour buffer, the N × CH bytes for the N of NPIX and the CH that CFG.CH4 selects, and changes nothing
else (R204). -/
def Obligations.ClearZeroesTheLiveBuffer : Prop :=
  ∀ s : State, s.busy = false → s.stat.configured = true →
    s.live = s.conf.npix.toNat * (if s.conf.cfg.ch4 then 4 else 3) ∧
    ∃ t, exec .clear s = .next t ∧ t.stat.err = .ok ∧ OnlyPixelsChange s t ∧
      (∀ a, a < s.live → t.cbuf.read a = 0) ∧ (∀ a, s.live ≤ a → t.cbuf.read a = s.cbuf.read a)

/-- Running a SET command or CLEAR twice leaves the state that running it once leaves (R207). -/
def Obligations.SetAndClearAreIdempotent : Prop :=
  ∀ (i : Instr) (s t : State), Memory.wf s.cbuf = true →
    ((∃ n, i = .setRgb n) ∨ (∃ n, i = .setRgbw n) ∨ (∃ n, i = .setHsb n) ∨ i = .clear) →
    exec i s = .next t → exec i t = .next t

/-- A SET command that succeeds changes only its pixel's CH bytes and STATUS.ERR; one that raises an error changes only
STATUS.ERR (R208). -/
def Obligations.SetCommandsAreLocal : Prop :=
  ∀ (i : Instr) (n : Nat) (s t : State), (i = .setRgb n ∨ i = .setRgbw n ∨ i = .setHsb n) → exec i s = .next t →
    OnlyPixelsChange s t ∧
    (t.stat.err = .ok → OtherPixelsKept s t n) ∧
    (t.stat.err ≠ .ok → t.cbuf = s.cbuf)

/-! ## The serializer -/

/-- For every legal code the offsets are a bijection from the CH channels onto 0 … CH − 1, and two codes with the same
offsets are the same code (R153, R154). -/
def Obligations.OrdersAreDistinctPermutations : Prop :=
  ∀ (ch4 : Bool) (o : BitVec 5), o.toNat < (if ch4 then 24 else 6) →
    (∀ k, k < (if ch4 then 4 else 3) →
      ∃ c, (ch4 = false → c ≠ .white) ∧ off ch4 o c = some k ∧
        ∀ d, off ch4 o d = some k → d = c) ∧
    (∀ c, off ch4 o c ≠ none ↔ (ch4 = false → c ≠ .white)) ∧
    (∀ c k, off ch4 o c = some k → k < (if ch4 then 4 else 3)) ∧
    (∀ q : BitVec 5, q.toNat < (if ch4 then 24 else 6) → (∀ c, off ch4 o c = off ch4 q c) → o = q)

/-- After `serialize(px, i)`, channel `c` of pixel `i` reads back bit for bit; with ORDER = 0 on an RGB strip it stands in the
order R, G, B (R156). -/
def Obligations.SerializedPixelReadsBack : Prop :=
  ∀ (s t : State) (px : List Byte) (i : Nat), serialize s px i = .next t →
    (∀ (c : Channel) (o : Nat) (v : Byte), off s.conf.cfg.ch4 s.conf.cfg.order c = some o → px[c.column]? = some v →
      t.cbuf.read (i * s.ch + o) = v) ∧
    (∀ p : Rgb, px = p.channels → s.conf.cfg.ch4 = false → s.conf.cfg.order = 0 →
      t.cbuf.read (3 * i) = p.red ∧ t.cbuf.read (3 * i + 1) = p.green ∧ t.cbuf.read (3 * i + 2) = p.blue)

/-! ## Colour conversion -/

/-- The Complex converter equals the Simple one for every input (R132). -/
def Obligations.ComplexConverterEqualsSimple : Prop :=
  ∀ p : Rgb, rgbToRgbwComplex p = rgbToRgbwSimple p

/-- The Simple converter's white is the least channel, and each channel is reduced by it without going below 0 (R130). -/
def Obligations.SimpleConverterSubtractsWhite : Prop :=
  ∀ p : Rgb,
    (rgbToRgbwSimple p).white.toNat = min (min p.red.toNat p.green.toNat) p.blue.toNat ∧
    (rgbToRgbwSimple p).red.toNat + (rgbToRgbwSimple p).white.toNat = p.red.toNat ∧
    (rgbToRgbwSimple p).green.toNat + (rgbToRgbwSimple p).white.toNat = p.green.toNat ∧
    (rgbToRgbwSimple p).blue.toNat + (rgbToRgbwSimple p).white.toNat = p.blue.toNat

/-- In range, no result is clamped: each component is the truncated (or, without saturation, the rounded) product itself and
lies in 0 to 255; the six multiples of 60 at full saturation and brightness give the primary and secondary colours (R127). -/
def Obligations.InRangeHsbIsNotClamped : Prop :=
  (∀ h s v : ℚ, 0 ≤ s → s ≤ 1 → 0 ≤ v → v ≤ 1 → 0 ≤ h → h < 360 →
    (s = 0 → 0 ≤ roundHA (v * 255) ∧ roundHA (v * 255) ≤ 255 ∧
      ((hsbToRgb h s v).red.toNat : Int) = roundHA (v * 255) ∧
      ((hsbToRgb h s v).green.toNat : Int) = roundHA (v * 255) ∧
      ((hsbToRgb h s v).blue.toNat : Int) = roundHA (v * 255)) ∧
    (0 < s → ∀ ff : ℚ, ff = h / 60 - (Rat.floor (h / 60) : ℚ) →
      ∀ x : ℚ, (x = v ∨ x = v * (1 - s) ∨ x = v * (1 - s * ff) ∨ x = v * (1 - s * (1 - ff))) →
        0 ≤ trunc (x * 255) ∧ trunc (x * 255) ≤ 255 ∧ ((component x).toNat : Int) = trunc (x * 255))) ∧
  hsbToRgb 0 1 1 = ⟨255, 0, 0⟩ ∧ hsbToRgb 60 1 1 = ⟨255, 255, 0⟩ ∧ hsbToRgb 120 1 1 = ⟨0, 255, 0⟩ ∧
  hsbToRgb 180 1 1 = ⟨0, 255, 255⟩ ∧ hsbToRgb 240 1 1 = ⟨0, 0, 255⟩ ∧ hsbToRgb 300 1 1 = ⟨255, 0, 255⟩

/-- HsbToRgb (R122). For a hue below 360 in sector `i` and a positive saturation the components are those of the sector table,
each truncated and saturated to 0 to 255, whatever `s` and `v` are (R125); without saturation all three are the rounded
brightness, saturated likewise, for every `v` (R126). What truncating and rounding are (R12). -/
def Obligations.HueSectorSelectsComponents : Prop :=
  (∀ h s v : ℚ, 0 < s → h < 360 → ∀ ff : ℚ, ff = h / 60 - (Rat.floor (h / 60) : ℚ) →
    ∀ p q t : ℚ, p = v * (1 - s) → q = v * (1 - s * ff) → t = v * (1 - s * (1 - ff)) →
    (0 ≤ h → h < 60 → hsbToRgb h s v = ⟨component v, component t, component p⟩) ∧
    (60 ≤ h → h < 120 → hsbToRgb h s v = ⟨component q, component v, component p⟩) ∧
    (120 ≤ h → h < 180 → hsbToRgb h s v = ⟨component p, component v, component t⟩) ∧
    (180 ≤ h → h < 240 → hsbToRgb h s v = ⟨component p, component q, component v⟩) ∧
    (240 ≤ h → h < 300 → hsbToRgb h s v = ⟨component t, component p, component v⟩) ∧
    (300 ≤ h → hsbToRgb h s v = ⟨component v, component p, component q⟩) ∧
    (h < 0 → hsbToRgb h s v = ⟨component v, component p, component q⟩)) ∧
  (∀ x : ℚ,
    (trunc (x * 255) < 0 → component x = 0) ∧ (255 < trunc (x * 255) → component x = 255) ∧
    (0 ≤ trunc (x * 255) → trunc (x * 255) ≤ 255 → ((component x).toNat : Int) = trunc (x * 255))) ∧
  (∀ h s v : ℚ, s ≤ 0 → ∃ c : Byte, hsbToRgb h s v = ⟨c, c, c⟩ ∧
    (roundHA (v * 255) < 0 → c = 0) ∧ (255 < roundHA (v * 255) → c = 255) ∧
    (0 ≤ roundHA (v * 255) → roundHA (v * 255) ≤ 255 → (c.toNat : Int) = roundHA (v * 255))) ∧
  (∀ x : ℚ,
    (0 ≤ x → trunc x = ⌊x⌋ ∧ roundHA x = ⌊x + 1 / 2⌋) ∧ (x ≤ 0 → trunc x = ⌈x⌉ ∧ roundHA x = ⌈x - 1 / 2⌉))

/-- A hue of 360 or more acts as hue 0, and hue has no effect without saturation (R123). -/
def Obligations.LargeHueActsAsZero : Prop :=
  (∀ h s v : ℚ, 360 ≤ h → hsbToRgb h s v = hsbToRgb 0 s v) ∧
  (∀ h k s v : ℚ, s ≤ 0 → hsbToRgb h s v = hsbToRgb k s v)

/-- CONV_HSB2RGB writes {0, r, g, b} to RES and changes nothing else, configured or not (R140). The value of each binary32
pattern is that of R120; a non-finite operand gives 0 (R121). -/
def Obligations.ConvHsbWritesResult : Prop :=
  (∀ w : Word,
    ((w.extractLsb' 23 8).toNat = 255 → f32val w = none) ∧
    ((w.extractLsb' 23 8).toNat = 0 → f32val w = some
      ((-1 : ℚ) ^ (w.getLsbD 31).toNat * ((w.extractLsb' 0 23).toNat : ℚ) * (2 : ℚ) ^ (-149 : ℤ))) ∧
    (0 < (w.extractLsb' 23 8).toNat → (w.extractLsb' 23 8).toNat < 255 → f32val w = some
      ((-1 : ℚ) ^ (w.getLsbD 31).toNat * (2 ^ 23 + ((w.extractLsb' 0 23).toNat : ℚ)) *
        (2 : ℚ) ^ (((w.extractLsb' 23 8).toNat : ℤ) - 150)))) ∧
  ∀ s : State, s.busy = false →
    ∃ t, exec .convHsb2rgb s = .next t ∧ t.stat.err = .ok ∧ OnlyResultChanges s t ∧
      t.res.extractLsb' 24 8 = 0 ∧
      (∀ h x v, f32val s.opnd.oph = some h → f32val s.opnd.ops = some x → f32val s.opnd.opb = some v →
        t.res.extractLsb' 16 8 = (hsbToRgb h x v).red ∧ t.res.extractLsb' 8 8 = (hsbToRgb h x v).green ∧
        t.res.extractLsb' 0 8 = (hsbToRgb h x v).blue) ∧
      ((f32val s.opnd.oph = none ∨ f32val s.opnd.ops = none ∨ f32val s.opnd.opb = none) → t.res = 0)

/-- CONV_RGB2RGBW_SIMPLE and CONV_RGB2RGBW_COMPLEX write {W', R', G', B'} of their converter to RES and change nothing else,
configured or not (R141, R142). -/
def Obligations.ConvRgbwWritesResult : Prop :=
  ∀ (s : State) (p : Rgb), s.busy = false →
    p = ⟨s.opnd.opa.extractLsb' 16 8, s.opnd.opa.extractLsb' 8 8, s.opnd.opa.extractLsb' 0 8⟩ →
    (∃ t, exec .convRgb2rgbwSimple s = .next t ∧ t.stat.err = .ok ∧ OnlyResultChanges s t ∧
      t.res.extractLsb' 24 8 = (rgbToRgbwSimple p).white ∧ t.res.extractLsb' 16 8 = (rgbToRgbwSimple p).red ∧
      t.res.extractLsb' 8 8 = (rgbToRgbwSimple p).green ∧ t.res.extractLsb' 0 8 = (rgbToRgbwSimple p).blue) ∧
    (∃ t, exec .convRgb2rgbwComplex s = .next t ∧ t.stat.err = .ok ∧ OnlyResultChanges s t ∧
      t.res.extractLsb' 24 8 = (rgbToRgbwComplex p).white ∧ t.res.extractLsb' 16 8 = (rgbToRgbwComplex p).red ∧
      t.res.extractLsb' 8 8 = (rgbToRgbwComplex p).green ∧ t.res.extractLsb' 0 8 = (rgbToRgbwComplex p).blue)

/-! ## RENDER -/

/-- RENDER writes one descriptor per bit, most significant bit first, then TERM; sets PLEN to N × B + 1, with B = 24 or 32 as
CFG.CH4 selects, and TXS to ACTIVE; sends PLAY(N × B); and changes nothing else (R231, R235, R236). -/
def Obligations.RenderBuildsThePulseSequence : Prop :=
  ∀ s : State, s.busy = false → s.stat.configured = true →
    ∃ t, exec .render s = .next t ∧
      t.stat = { s.stat with txs := .active, err := .ok } ∧ t.plen.toNat = s.pixels * s.bits + 1 ∧
      s.pixels * s.bits = s.conf.npix.toNat * (if s.conf.cfg.ch4 then 32 else 24) ∧
      (∀ i b, i < s.pixels → b < s.bits →
        t.pbuf.read (i * s.bits + b) =
          if (s.pixelWord i).testBit (s.bits - 1 - b) then descriptor s.conf.t1h s.conf.t1l
          else descriptor s.conf.t0h s.conf.t0l) ∧
      t.pbuf.read (s.pixels * s.bits) = 0 ∧
      (∀ k, s.pixels * s.bits < k → t.pbuf.read k = s.pbuf.read k) ∧
      t.conf = s.conf ∧ t.opnd = s.opnd ∧ t.res = s.res ∧ t.cbuf = s.cbuf ∧
      t.env = { s.env with txRequests := .play (s.pixels * s.bits) :: s.env.txRequests }

/-- Descriptor `i × B + 8k + (7 − j)` encodes bit `j` of `CBUF[i × CH + k]` (R232). -/
def Obligations.WireOrderIsMsbFirst : Prop :=
  ∀ (s t : State), s.stat.configured = true → exec .render s = .next t → t.stat.err = .ok →
    ∀ i k j, i < s.pixels → k < s.ch → j < 8 →
      t.pbuf.read (i * s.bits + 8 * k + (7 - j)) =
        if (s.cbuf.read (i * s.ch + k)).getLsbD j then descriptor s.conf.t1h s.conf.t1l
        else descriptor s.conf.t0h s.conf.t0l

/-- The descriptor of R233: duration0 and level0 = 1 below, duration1 and level1 = 0 above; its value is
(l << 16) | 0x8000 | h. -/
def Obligations.DescriptorLayout : Prop :=
  ∀ h l : Ticks,
    (descriptor h l).extractLsb' 0 15 = h ∧ (descriptor h l).getLsbD 15 = true ∧
    (descriptor h l).extractLsb' 16 15 = l ∧ (descriptor h l).getLsbD 31 = false ∧
    descriptor h l = (l.zeroExtend 32 <<< 16) ||| 0x8000 ||| h.zeroExtend 32

/-- With no write to CBUF between two accepted RENDERs, the second builds the same PBUF and PLEN as the first (R238): `r` is any
later state, with the configuration unchanged (R29) and the live colour bytes as the first RENDER left them. -/
def Obligations.RerenderIsIdentical : Prop :=
  ∀ s t r u : State, exec .render s = .next t → t.stat.err = .ok →
    r.conf = t.conf → (∀ a, a < r.live → r.cbuf.read a = t.cbuf.read a) →
    exec .render r = .next u → u.stat.err = .ok →
    u.plen = t.plen ∧ ∀ k, k < u.plen.toNat → u.pbuf.read k = t.pbuf.read k

/-- After CLEAR and then RENDER every bit descriptor is the 0 bit, and TERM follows (R239). -/
def Obligations.ClearThenRenderSendsZeros : Prop :=
  ∀ s t u : State, exec .clear s = .next t → t.stat.err = .ok → exec .render t = .next u → u.stat.err = .ok →
    (∀ n, n < s.pixels * s.bits → u.pbuf.read n = descriptor s.conf.t0h s.conf.t0l) ∧
    u.pbuf.read (s.pixels * s.bits) = 0

/-- A RENDER right after a successful CONFIGURE sends only 0 bits and TERM: the sequence that CLEAR and RENDER send (R294). -/
def Obligations.FirstRenderSendsZeros : Prop :=
  ∀ s t u c v : State, exec .configure s = .next t → t.stat.err = .ok → exec .render t = .next u →
    exec .clear t = .next c → exec .render c = .next v →
    (∀ a, a < t.live → t.cbuf.read a = 0) ∧
    (∀ n, n < t.pixels * t.bits → u.pbuf.read n = descriptor t.conf.t0h t.conf.t0l) ∧
    (∀ n, n < u.plen.toNat → u.pbuf.read n = v.pbuf.read n) ∧ u.plen = v.plen

/-- The waveform of an accepted RENDER: for each bit, high for its high ticks and then low for its low ticks (R245). With all
four tick values at least 1 it is what reaches the line (R242, R307). -/
def Obligations.WaveIsHighThenLowPerBit : Prop :=
  ∀ s t : State, exec .render s = .next t → t.stat.err = .ok →
    t.wave (s.pixels * s.bits) =
      ((List.range (s.pixels * s.bits)).flatMap fun m =>
        [(true, if s.streamBit m then s.conf.t1h.toNat else s.conf.t0h.toNat),
         (false, if s.streamBit m then s.conf.t1l.toNat else s.conf.t0l.toNat)]) ∧
    (s.conf.t0h ≠ 0 → s.conf.t0l ≠ 0 → s.conf.t1h ≠ 0 → s.conf.t1l ≠ 0 →
      t.line (s.pixels * s.bits) = t.wave (s.pixels * s.bits))

/-- DONE and FAIL: enabled only while TXS = ACTIVE; each changes TXS alone (R237). An event that is not enabled leaves PXE as
it is: the model's reading of R291 (log 5). -/
def Obligations.TransmitterEventsEndThePlay : Prop :=
  ∀ s : State,
    (s.stat.txs = .active →
      txEvent .done s = { s with stat := { s.stat with txs := .done } } ∧
      txEvent .fail s = { s with stat := { s.stat with txs := .failed } }) ∧
    (s.stat.txs ≠ .active → ∀ e, txEvent e s = s)

/-! ## Registers and windows -/

/-- A 32-bit write to a configuration register while unconfigured, or to an operand register at any time, is read back with its
reserved bits 0 (a tick count so keeps its value modulo 32768, with no error and no WDROP), and changes no other register, flag or
buffer (R24 to R32, R174, R300). -/
def Obligations.WrittenRegisterReadsBackMasked : Prop :=
  ∀ (s : State) (r : Reg) (v : Word),
    ((r.isConf = true ∧ s.stat.configured = false) ∨ r.isOperand = true) →
    ∃ t, hostAccess (.write r.offset 4 v) s = .next t ∧ t.busRead r.offset 4 = v &&& r.mask ∧
      (∀ q : Reg, q ≠ r → t.busRead q.offset 4 = s.busRead q.offset 4) ∧
      t.stat = s.stat ∧ t.res = s.res ∧ t.plen = s.plen ∧ t.cbuf = s.cbuf ∧ t.pbuf = s.pbuf ∧ t.env = s.env

/-- While configured, a write to a configuration register is dropped: it sets WDROP and changes nothing else (R29). -/
def Obligations.ConfigurationIsReadOnlyWhileConfigured : Prop :=
  ∀ (s : State) (r : Reg) (v : Word), r.isConf = true → s.stat.configured = true →
    hostAccess (.write r.offset 4 v) s = .next { s with stat := { s.stat with wdrop := true } }

/-- The writes that are dropped whole, setting WDROP and changing nothing else: ill-formed ones (R65), those at a reserved
offset (R66), those to the pulse window (R68), and those to RES and PLEN (R40, R41). -/
def Obligations.DroppedWritesSetOnlyWdrop : Prop :=
  ∀ (s : State) (o : Offset) (n : Nat) (v : Word),
    (wellFormedAccess o.toNat n = false ∨ o.toNat = 0x01C ∨ (0x040 ≤ o.toNat ∧ o.toNat < 0x10000) ∨
      (0x020000 ≤ o.toNat ∧ o.toNat < 0x200000) ∨ 0x200000 ≤ o.toNat ∨ o.toNat = 0x038 ∨ o.toNat = 0x03C) →
    hostAccess (.write o n v) s = .next { s with stat := { s.stat with wdrop := true } }

/-- A 32-bit write to STATUS clears WDROP if its bit 2 is 1, and changes nothing else (R37). -/
def Obligations.StatusWriteClearsOnlyWdrop : Prop :=
  ∀ (s : State) (v : Word),
    (v.getLsbD 2 = true →
      hostAccess (.write Reg.status.offset 4 v) s = .next { s with stat := { s.stat with wdrop := false } }) ∧
    (v.getLsbD 2 = false → hostAccess (.write Reg.status.offset 4 v) s = .next s)

/-- A read changes nothing of PXE: the next state differs in the returned data alone (R70, R71). -/
def Obligations.ReadsHaveNoSideEffect : Prop :=
  ∀ (s : State) (o : Offset) (n : Nat),
    hostAccess (.read o n) s = .next { s with env := { s.env with lastRead := some (s.busRead o n) } }

/-- An ill-formed read, and a read at a reserved offset or of CMD, returns 0 (R33, R65, R66). -/
def Obligations.IllFormedAndReservedReadZero : Prop :=
  ∀ (s : State) (o : Offset) (n : Nat),
    (wellFormedAccess o.toNat n = false ∨ o.toNat = 0x01C ∨ (0x040 ≤ o.toNat ∧ o.toNat < 0x10000) ∨
      (0x020000 ≤ o.toNat ∧ o.toNat < 0x200000) ∨ o.toNat = 0x030) →
    s.busRead o n = 0

/-- Which accesses are allowed (R61). -/
def Obligations.AllowedWidthsAndAlignments : Prop :=
  ∀ (o : Offset) (n : Nat), wellFormedAccess o.toNat n = true ↔
    ((o.toNat < 0x010000 ∧ n = 4 ∧ o.toNat % 4 = 0) ∨
     (((0x010000 ≤ o.toNat ∧ o.toNat < 0x020000) ∨ 0x200000 ≤ o.toNat) ∧
      (n = 1 ∨ (n = 2 ∧ o.toNat % 2 = 0) ∨ (n = 4 ∧ o.toNat % 4 = 0))))

/-- STATUS as read: BUSY is TXS == 1, each field at its bits, the reserved bits 0, ERR below 8 (R34, R35, R260). -/
def Obligations.StatusWordLayout : Prop :=
  ∀ s : State,
    (s.busRead Reg.status.offset 4).getLsbD 0 = decide ((s.busRead Reg.status.offset 4).extractLsb' 4 2 = 1) ∧
    (s.busRead Reg.status.offset 4).getLsbD 1 = s.stat.configured ∧
    (s.busRead Reg.status.offset 4).getLsbD 2 = s.stat.wdrop ∧
    (s.busRead Reg.status.offset 4).getLsbD 3 = false ∧
    (s.busRead Reg.status.offset 4).extractLsb' 4 2 = s.stat.txs.code ∧
    (s.busRead Reg.status.offset 4).extractLsb' 6 2 = 0 ∧
    (s.busRead Reg.status.offset 4).extractLsb' 8 4 = s.stat.err.code ∧
    (s.busRead Reg.status.offset 4).extractLsb' 12 20 = 0 ∧
    s.stat.err.code.toNat < 8

/-- A colour-window read: each of its bytes, little-endian, is CBUF below LIVE and 0 at or beyond it (R62, R63). -/
def Obligations.ColourWindowReadsLiveBytes : Prop :=
  ∀ (s : State) (o : Offset) (n j : Nat), 0x010000 ≤ o.toNat → o.toNat < 0x020000 →
    wellFormedAccess o.toNat n = true → j < 4 →
    (s.busRead o n).extractLsb' (8 * j) 8 =
      if j < n ∧ o.toNat - 0x010000 + j < s.live then s.cbuf.read (o.toNat - 0x010000 + j) else 0

/-- A pulse-window read: each of its bytes, little-endian, is that of PBUF below PLEN and 0 at or beyond it; an aligned 32-bit
read returns its descriptor whole (R62, R67). -/
def Obligations.PulseWindowReadsValidDescriptors : Prop :=
  (∀ (s : State) (o : Offset) (n j p : Nat), 0x200000 ≤ o.toNat → wellFormedAccess o.toNat n = true → j < 4 →
    p = o.toNat - 0x200000 + j →
    (s.busRead o n).extractLsb' (8 * j) 8 =
      if j < n ∧ p / 4 < s.plen.toNat then (s.pbuf.read (p / 4)).extractLsb' (8 * (p % 4)) 8 else 0) ∧
  (∀ (s : State) (k : Nat), k < 0x80000 →
    s.busRead (BitVec.ofNat 22 (0x200000 + 4 * k)) 4 = if k < s.plen.toNat then s.pbuf.read k else 0)

/-- A colour-window write is applied byte by byte: below LIVE and while not BUSY a byte is stored, any other is dropped and sets
WDROP; nothing else changes (R62, R64). -/
def Obligations.ColourWindowWritesLiveBytes : Prop :=
  ∀ (s : State) (o : Offset) (n : Nat) (v : Word), 0x010000 ≤ o.toNat → o.toNat < 0x020000 →
    wellFormedAccess o.toNat n = true →
    ∃ t, hostAccess (.write o n v) s = .next t ∧
      (∀ j, j < n → o.toNat - 0x010000 + j < s.live → s.busy = false →
        t.cbuf.read (o.toNat - 0x010000 + j) = v.extractLsb' (8 * j) 8) ∧
      (∀ a, (a < o.toNat - 0x010000 ∨ o.toNat - 0x010000 + n ≤ a ∨ s.live ≤ a ∨ s.busy = true) →
        t.cbuf.read a = s.cbuf.read a) ∧
      (t.stat.wdrop = true ↔ s.stat.wdrop = true ∨ s.busy = true ∨ s.live < o.toNat - 0x010000 + n) ∧
      t.conf = s.conf ∧ t.opnd = s.opnd ∧ t.stat.configured = s.stat.configured ∧ t.stat.txs = s.stat.txs ∧
      t.stat.err = s.stat.err ∧ t.res = s.res ∧ t.plen = s.plen ∧ t.pbuf = s.pbuf ∧ t.env = s.env

/-! ## Who writes what -/

/-- TXS changes only at an accepted RENDER (to ACTIVE), at a DONE or FAIL (to DONE or FAILED), and to IDLE at a successful
CONFIGURE or RELEASE or at reset (R38). -/
def Obligations.TxsChangesOnlyAtItsEvents : Prop :=
  ∀ s t : State, step s = .next t → t.stat.txs ≠ s.stat.txs →
    (NextReset s ∧ t.stat.txs = .idle) ∨
    (NextCommand s .configure ∧ t.stat.err = .ok ∧ t.stat.txs = .idle) ∨
    (NextCommand s .release ∧ t.stat.err = .ok ∧ t.stat.txs = .idle) ∨
    (NextCommand s .render ∧ t.stat.err = .ok ∧ t.stat.txs = .active) ∨
    (s.stat.txs = .active ∧ ∃ rest, s.env.inputs = .tx .done :: rest ∧ t.stat.txs = .done) ∨
    (s.stat.txs = .active ∧ ∃ rest, s.env.inputs = .tx .fail :: rest ∧ t.stat.txs = .failed)

/-- CONFIGURED is set only by a successful CONFIGURE and cleared only by RELEASE or by reset (R36). -/
def Obligations.ConfiguredChangesOnlyAtItsEvents : Prop :=
  ∀ s t : State, step s = .next t →
    (s.stat.configured = false → t.stat.configured = true → NextCommand s .configure ∧ t.stat.err = .ok) ∧
    (s.stat.configured = true → t.stat.configured = false →
      NextReset s ∨ (NextCommand s .release ∧ t.stat.err = .ok))

/-- ERR changes only at a Host write to CMD (R39) and at reset (R290); WDROP is cleared only by a Host write of 1 to STATUS
bit 2 or by reset (R37). -/
def Obligations.ErrAndWdropWriters : Prop :=
  ∀ s t : State, step s = .next t → ¬ NextReset s →
    (t.stat.err ≠ s.stat.err → NextCmdWrite s) ∧
    (s.stat.wdrop = true → t.stat.wdrop = false →
      ∃ v rest, s.env.inputs = .host (.write Reg.status.offset 4 v) :: rest ∧ v.getLsbD 2 = true)

/-- RES is written only by a successful CONV command (R40), PLEN only by a successful RENDER, CONFIGURE or RELEASE (R41), PBUF
only by a successful RENDER (R68), each but for reset. -/
def Obligations.ResultAndPulseWriters : Prop :=
  ∀ s t : State, step s = .next t → ¬ NextReset s →
    (t.res ≠ s.res → t.stat.err = .ok ∧
      (NextCommand s .convHsb2rgb ∨ NextCommand s .convRgb2rgbwSimple ∨ NextCommand s .convRgb2rgbwComplex)) ∧
    (t.plen ≠ s.plen → t.stat.err = .ok ∧
      (NextCommand s .render ∨ NextCommand s .configure ∨ NextCommand s .release)) ∧
    (t.pbuf ≠ s.pbuf → t.stat.err = .ok ∧ NextCommand s .render)

/-- While configured, no step but reset changes the configuration registers (R29, R171, R304). -/
def Obligations.ConfigurationIsFixedWhileConfigured : Prop :=
  ∀ s t : State, step s = .next t → s.stat.configured = true → ¬ NextReset s → t.conf = s.conf

/-- While TXS = ACTIVE no Host write, command or Transmitter event changes PBUF, PLEN, CBUF or the configuration: the
Transmitter sees exactly what RENDER wrote (R79, R244). -/
def Obligations.TransmissionFreezesTheBuffers : Prop :=
  ∀ s t : State, step s = .next t → s.stat.txs = .active → s.stat.configured = true → ¬ NextReset s →
    t.pbuf = s.pbuf ∧ t.plen = s.plen ∧ t.cbuf = s.cbuf ∧ t.conf = s.conf ∧ t.stat.configured = true

/-- Reset puts every register at its reset value and makes both windows read 0; it sends nothing to the Transmitter
(R48, R290, R291). -/
def Obligations.ResetClearsEveryRegister : Prop :=
  ∀ (s t : State) (rest : List Input), s.env.inputs = .reset :: rest → step s = .next t →
    (∀ r : Reg, t.busRead r.offset 4 = 0) ∧
    (∀ (o : Offset) (n : Nat), 0x010000 ≤ o.toNat → t.busRead o n = 0) ∧
    t.stat = { configured := false, wdrop := false, txs := .idle, err := .ok } ∧ t.live = 0 ∧
    t.env = { s.env with inputs := rest }

/-! ## Invariants of every step -/

/-- The invariant holds right after reset. -/
def Obligations.ResetEstablishesTheInvariant : Prop := Inv State.reset

/-- Every step keeps the invariant: the memories' canonical form and bounds, a legal configuration while configured, PLEN and
the built sequence after a RENDER, and PBUF equal to the sequence of CBUF during a transmission. -/
def Obligations.StepKeepsTheInvariant : Prop :=
  ∀ s t : State, Inv s → step s = .next t → Inv t

/-- From a state that meets the invariant no step faults, and only an access by a second Host is refused (R71, R275). -/
def Obligations.InvariantStatesNeverFault : Prop :=
  ∀ s : State, Inv s → SafeOutcome s (step s)

/-- Unspecified contents are unobservable: two states that differ only in CBUF at or beyond LIVE and PBUF at or beyond PLEN
take the same kind of step, read the same data, and stay so (R44, R48). -/
def Obligations.UnspecifiedContentsAreUnobservable : Prop :=
  ∀ s t : State, SameObservable s t →
    (∀ (o : Offset) (n : Nat), s.busRead o n = t.busRead o n) ∧
    (∀ s', step s = .next s' → ∃ t', step t = .next t' ∧ SameObservable s' t') ∧
    (∀ x, step s = .fault x → step t = .fault x) ∧
    (∀ x, step s = .refused x → step t = .refused x)

/-! ## The Host side -/

/-- The ns-to-tick formula is the floor of ns × CLOCK_RATE / (DIVIDER × 100) (R172); the worked examples of R178. -/
def Obligations.TicksFromNsIsAFloor : Prop :=
  (∀ ns c d : Nat, 0 < d →
    ((ticksFromNs ns c d : Int) = ⌊((ns : ℚ) * (c : ℚ)) / ((d : ℚ) * 100)⌋)) ∧
  ticksFromNs 400 8 2 = 16 ∧ ticksFromNs 850 8 2 = 34 ∧ ticksFromNs 400 80 2 = 160

/-- A CI line of a Host program is one write of the command's word: whatever expression gives its index, with a value in 0 to
65535 it runs exactly that command (R98). -/
def Obligations.CiLineIssuesItsCommand : Prop :=
  ∀ (c : CiName) (e : Expr) (n : Nat) (s : State) (vars : Vars), e.eval vars = some (n : Int) → n < 65536 →
    ∃ b, (Line.ci c e).expand = [b] ∧
      ∃ a, b.access vars = some a ∧ hostAccess a s = exec (c.instr n) s
end

