-- ==== Sys2Proof/Laws/State.lean ====
section
/-! SUPPORT. One lemma per field per named update of State, and per derived value that an update leaves alone. -/

namespace Sys2Proof.Machine

/-! ## setErr -/

section
variable (s : State) (e : Err)

@[simp] theorem State.setErr_conf : (s.setErr e).conf = s.conf := rfl
@[simp] theorem State.setErr_opnd : (s.setErr e).opnd = s.opnd := rfl
@[simp] theorem State.setErr_err : (s.setErr e).stat.err = e := rfl
@[simp] theorem State.setErr_wdrop : (s.setErr e).stat.wdrop = s.stat.wdrop := rfl
@[simp] theorem State.setErr_txs : (s.setErr e).stat.txs = s.stat.txs := rfl
@[simp] theorem State.setErr_configured : (s.setErr e).stat.configured = s.stat.configured := rfl
@[simp] theorem State.setErr_res : (s.setErr e).res = s.res := rfl
@[simp] theorem State.setErr_plen : (s.setErr e).plen = s.plen := rfl
@[simp] theorem State.setErr_cbuf : (s.setErr e).cbuf = s.cbuf := rfl
@[simp] theorem State.setErr_pbuf : (s.setErr e).pbuf = s.pbuf := rfl
@[simp] theorem State.setErr_env : (s.setErr e).env = s.env := rfl
@[simp] theorem State.setErr_busy : (s.setErr e).busy = s.busy := rfl
@[simp] theorem State.setErr_pixels : (s.setErr e).pixels = s.pixels := rfl
@[simp] theorem State.setErr_ch : (s.setErr e).ch = s.ch := rfl
@[simp] theorem State.setErr_bits : (s.setErr e).bits = s.bits := rfl
@[simp] theorem State.setErr_live : (s.setErr e).live = s.live := rfl
@[simp] theorem State.setErr_orderCount : (s.setErr e).orderCount = s.orderCount := rfl

end

/-! ## setWdrop -/

section
variable (s : State) (b : Bool)

@[simp] theorem State.setWdrop_conf : (s.setWdrop b).conf = s.conf := rfl
@[simp] theorem State.setWdrop_opnd : (s.setWdrop b).opnd = s.opnd := rfl
@[simp] theorem State.setWdrop_err : (s.setWdrop b).stat.err = s.stat.err := rfl
@[simp] theorem State.setWdrop_wdrop : (s.setWdrop b).stat.wdrop = b := rfl
@[simp] theorem State.setWdrop_txs : (s.setWdrop b).stat.txs = s.stat.txs := rfl
@[simp] theorem State.setWdrop_configured : (s.setWdrop b).stat.configured = s.stat.configured := rfl
@[simp] theorem State.setWdrop_res : (s.setWdrop b).res = s.res := rfl
@[simp] theorem State.setWdrop_plen : (s.setWdrop b).plen = s.plen := rfl
@[simp] theorem State.setWdrop_cbuf : (s.setWdrop b).cbuf = s.cbuf := rfl
@[simp] theorem State.setWdrop_pbuf : (s.setWdrop b).pbuf = s.pbuf := rfl
@[simp] theorem State.setWdrop_env : (s.setWdrop b).env = s.env := rfl
@[simp] theorem State.setWdrop_busy : (s.setWdrop b).busy = s.busy := rfl
@[simp] theorem State.setWdrop_pixels : (s.setWdrop b).pixels = s.pixels := rfl
@[simp] theorem State.setWdrop_ch : (s.setWdrop b).ch = s.ch := rfl
@[simp] theorem State.setWdrop_bits : (s.setWdrop b).bits = s.bits := rfl
@[simp] theorem State.setWdrop_live : (s.setWdrop b).live = s.live := rfl
@[simp] theorem State.setWdrop_orderCount : (s.setWdrop b).orderCount = s.orderCount := rfl

end

/-! ## setTxs -/

section
variable (s : State) (x : Txs)

@[simp] theorem State.setTxs_conf : (s.setTxs x).conf = s.conf := rfl
@[simp] theorem State.setTxs_opnd : (s.setTxs x).opnd = s.opnd := rfl
@[simp] theorem State.setTxs_err : (s.setTxs x).stat.err = s.stat.err := rfl
@[simp] theorem State.setTxs_wdrop : (s.setTxs x).stat.wdrop = s.stat.wdrop := rfl
@[simp] theorem State.setTxs_txs : (s.setTxs x).stat.txs = x := rfl
@[simp] theorem State.setTxs_configured : (s.setTxs x).stat.configured = s.stat.configured := rfl
@[simp] theorem State.setTxs_res : (s.setTxs x).res = s.res := rfl
@[simp] theorem State.setTxs_plen : (s.setTxs x).plen = s.plen := rfl
@[simp] theorem State.setTxs_cbuf : (s.setTxs x).cbuf = s.cbuf := rfl
@[simp] theorem State.setTxs_pbuf : (s.setTxs x).pbuf = s.pbuf := rfl
@[simp] theorem State.setTxs_env : (s.setTxs x).env = s.env := rfl
@[simp] theorem State.setTxs_pixels : (s.setTxs x).pixels = s.pixels := rfl
@[simp] theorem State.setTxs_ch : (s.setTxs x).ch = s.ch := rfl
@[simp] theorem State.setTxs_bits : (s.setTxs x).bits = s.bits := rfl
@[simp] theorem State.setTxs_live : (s.setTxs x).live = s.live := rfl
@[simp] theorem State.setTxs_orderCount : (s.setTxs x).orderCount = s.orderCount := rfl

end

/-! ## setConfigured -/

section
variable (s : State) (b : Bool)

@[simp] theorem State.setConfigured_conf : (s.setConfigured b).conf = s.conf := rfl
@[simp] theorem State.setConfigured_opnd : (s.setConfigured b).opnd = s.opnd := rfl
@[simp] theorem State.setConfigured_err : (s.setConfigured b).stat.err = s.stat.err := rfl
@[simp] theorem State.setConfigured_wdrop : (s.setConfigured b).stat.wdrop = s.stat.wdrop := rfl
@[simp] theorem State.setConfigured_txs : (s.setConfigured b).stat.txs = s.stat.txs := rfl
@[simp] theorem State.setConfigured_configured : (s.setConfigured b).stat.configured = b := rfl
@[simp] theorem State.setConfigured_res : (s.setConfigured b).res = s.res := rfl
@[simp] theorem State.setConfigured_plen : (s.setConfigured b).plen = s.plen := rfl
@[simp] theorem State.setConfigured_cbuf : (s.setConfigured b).cbuf = s.cbuf := rfl
@[simp] theorem State.setConfigured_pbuf : (s.setConfigured b).pbuf = s.pbuf := rfl
@[simp] theorem State.setConfigured_env : (s.setConfigured b).env = s.env := rfl
@[simp] theorem State.setConfigured_busy : (s.setConfigured b).busy = s.busy := rfl
@[simp] theorem State.setConfigured_pixels : (s.setConfigured b).pixels = s.pixels := rfl
@[simp] theorem State.setConfigured_ch : (s.setConfigured b).ch = s.ch := rfl
@[simp] theorem State.setConfigured_bits : (s.setConfigured b).bits = s.bits := rfl
@[simp] theorem State.setConfigured_orderCount : (s.setConfigured b).orderCount = s.orderCount := rfl

end

/-! ## setConf -/

section
variable (s : State) (c : Conf)

@[simp] theorem State.setConf_conf : (s.setConf c).conf = c := rfl
@[simp] theorem State.setConf_opnd : (s.setConf c).opnd = s.opnd := rfl
@[simp] theorem State.setConf_err : (s.setConf c).stat.err = s.stat.err := rfl
@[simp] theorem State.setConf_wdrop : (s.setConf c).stat.wdrop = s.stat.wdrop := rfl
@[simp] theorem State.setConf_txs : (s.setConf c).stat.txs = s.stat.txs := rfl
@[simp] theorem State.setConf_configured : (s.setConf c).stat.configured = s.stat.configured := rfl
@[simp] theorem State.setConf_res : (s.setConf c).res = s.res := rfl
@[simp] theorem State.setConf_plen : (s.setConf c).plen = s.plen := rfl
@[simp] theorem State.setConf_cbuf : (s.setConf c).cbuf = s.cbuf := rfl
@[simp] theorem State.setConf_pbuf : (s.setConf c).pbuf = s.pbuf := rfl
@[simp] theorem State.setConf_env : (s.setConf c).env = s.env := rfl
@[simp] theorem State.setConf_busy : (s.setConf c).busy = s.busy := rfl

end

/-! ## setOpnd -/

section
variable (s : State) (o : Operands)

@[simp] theorem State.setOpnd_conf : (s.setOpnd o).conf = s.conf := rfl
@[simp] theorem State.setOpnd_opnd : (s.setOpnd o).opnd = o := rfl
@[simp] theorem State.setOpnd_err : (s.setOpnd o).stat.err = s.stat.err := rfl
@[simp] theorem State.setOpnd_wdrop : (s.setOpnd o).stat.wdrop = s.stat.wdrop := rfl
@[simp] theorem State.setOpnd_txs : (s.setOpnd o).stat.txs = s.stat.txs := rfl
@[simp] theorem State.setOpnd_configured : (s.setOpnd o).stat.configured = s.stat.configured := rfl
@[simp] theorem State.setOpnd_res : (s.setOpnd o).res = s.res := rfl
@[simp] theorem State.setOpnd_plen : (s.setOpnd o).plen = s.plen := rfl
@[simp] theorem State.setOpnd_cbuf : (s.setOpnd o).cbuf = s.cbuf := rfl
@[simp] theorem State.setOpnd_pbuf : (s.setOpnd o).pbuf = s.pbuf := rfl
@[simp] theorem State.setOpnd_env : (s.setOpnd o).env = s.env := rfl
@[simp] theorem State.setOpnd_busy : (s.setOpnd o).busy = s.busy := rfl
@[simp] theorem State.setOpnd_pixels : (s.setOpnd o).pixels = s.pixels := rfl
@[simp] theorem State.setOpnd_ch : (s.setOpnd o).ch = s.ch := rfl
@[simp] theorem State.setOpnd_bits : (s.setOpnd o).bits = s.bits := rfl
@[simp] theorem State.setOpnd_live : (s.setOpnd o).live = s.live := rfl
@[simp] theorem State.setOpnd_orderCount : (s.setOpnd o).orderCount = s.orderCount := rfl

end

/-! ## setRes -/

section
variable (s : State) (v : Word)

@[simp] theorem State.setRes_conf : (s.setRes v).conf = s.conf := rfl
@[simp] theorem State.setRes_opnd : (s.setRes v).opnd = s.opnd := rfl
@[simp] theorem State.setRes_err : (s.setRes v).stat.err = s.stat.err := rfl
@[simp] theorem State.setRes_wdrop : (s.setRes v).stat.wdrop = s.stat.wdrop := rfl
@[simp] theorem State.setRes_txs : (s.setRes v).stat.txs = s.stat.txs := rfl
@[simp] theorem State.setRes_configured : (s.setRes v).stat.configured = s.stat.configured := rfl
@[simp] theorem State.setRes_res : (s.setRes v).res = v := rfl
@[simp] theorem State.setRes_plen : (s.setRes v).plen = s.plen := rfl
@[simp] theorem State.setRes_cbuf : (s.setRes v).cbuf = s.cbuf := rfl
@[simp] theorem State.setRes_pbuf : (s.setRes v).pbuf = s.pbuf := rfl
@[simp] theorem State.setRes_env : (s.setRes v).env = s.env := rfl
@[simp] theorem State.setRes_busy : (s.setRes v).busy = s.busy := rfl
@[simp] theorem State.setRes_pixels : (s.setRes v).pixels = s.pixels := rfl
@[simp] theorem State.setRes_ch : (s.setRes v).ch = s.ch := rfl
@[simp] theorem State.setRes_bits : (s.setRes v).bits = s.bits := rfl
@[simp] theorem State.setRes_live : (s.setRes v).live = s.live := rfl
@[simp] theorem State.setRes_orderCount : (s.setRes v).orderCount = s.orderCount := rfl

end

/-! ## setPlen -/

section
variable (s : State) (v : Word)

@[simp] theorem State.setPlen_conf : (s.setPlen v).conf = s.conf := rfl
@[simp] theorem State.setPlen_opnd : (s.setPlen v).opnd = s.opnd := rfl
@[simp] theorem State.setPlen_err : (s.setPlen v).stat.err = s.stat.err := rfl
@[simp] theorem State.setPlen_wdrop : (s.setPlen v).stat.wdrop = s.stat.wdrop := rfl
@[simp] theorem State.setPlen_txs : (s.setPlen v).stat.txs = s.stat.txs := rfl
@[simp] theorem State.setPlen_configured : (s.setPlen v).stat.configured = s.stat.configured := rfl
@[simp] theorem State.setPlen_res : (s.setPlen v).res = s.res := rfl
@[simp] theorem State.setPlen_plen : (s.setPlen v).plen = v := rfl
@[simp] theorem State.setPlen_cbuf : (s.setPlen v).cbuf = s.cbuf := rfl
@[simp] theorem State.setPlen_pbuf : (s.setPlen v).pbuf = s.pbuf := rfl
@[simp] theorem State.setPlen_env : (s.setPlen v).env = s.env := rfl
@[simp] theorem State.setPlen_busy : (s.setPlen v).busy = s.busy := rfl
@[simp] theorem State.setPlen_pixels : (s.setPlen v).pixels = s.pixels := rfl
@[simp] theorem State.setPlen_ch : (s.setPlen v).ch = s.ch := rfl
@[simp] theorem State.setPlen_bits : (s.setPlen v).bits = s.bits := rfl
@[simp] theorem State.setPlen_live : (s.setPlen v).live = s.live := rfl
@[simp] theorem State.setPlen_orderCount : (s.setPlen v).orderCount = s.orderCount := rfl

end

/-! ## setCbuf -/

section
variable (s : State) (m : Memory 8)

@[simp] theorem State.setCbuf_conf : (s.setCbuf m).conf = s.conf := rfl
@[simp] theorem State.setCbuf_opnd : (s.setCbuf m).opnd = s.opnd := rfl
@[simp] theorem State.setCbuf_err : (s.setCbuf m).stat.err = s.stat.err := rfl
@[simp] theorem State.setCbuf_wdrop : (s.setCbuf m).stat.wdrop = s.stat.wdrop := rfl
@[simp] theorem State.setCbuf_txs : (s.setCbuf m).stat.txs = s.stat.txs := rfl
@[simp] theorem State.setCbuf_configured : (s.setCbuf m).stat.configured = s.stat.configured := rfl
@[simp] theorem State.setCbuf_res : (s.setCbuf m).res = s.res := rfl
@[simp] theorem State.setCbuf_plen : (s.setCbuf m).plen = s.plen := rfl
@[simp] theorem State.setCbuf_cbuf : (s.setCbuf m).cbuf = m := rfl
@[simp] theorem State.setCbuf_pbuf : (s.setCbuf m).pbuf = s.pbuf := rfl
@[simp] theorem State.setCbuf_env : (s.setCbuf m).env = s.env := rfl
@[simp] theorem State.setCbuf_busy : (s.setCbuf m).busy = s.busy := rfl
@[simp] theorem State.setCbuf_pixels : (s.setCbuf m).pixels = s.pixels := rfl
@[simp] theorem State.setCbuf_ch : (s.setCbuf m).ch = s.ch := rfl
@[simp] theorem State.setCbuf_bits : (s.setCbuf m).bits = s.bits := rfl
@[simp] theorem State.setCbuf_live : (s.setCbuf m).live = s.live := rfl
@[simp] theorem State.setCbuf_orderCount : (s.setCbuf m).orderCount = s.orderCount := rfl

end

/-! ## setPbuf -/

section
variable (s : State) (m : Memory 32)

@[simp] theorem State.setPbuf_conf : (s.setPbuf m).conf = s.conf := rfl
@[simp] theorem State.setPbuf_opnd : (s.setPbuf m).opnd = s.opnd := rfl
@[simp] theorem State.setPbuf_err : (s.setPbuf m).stat.err = s.stat.err := rfl
@[simp] theorem State.setPbuf_wdrop : (s.setPbuf m).stat.wdrop = s.stat.wdrop := rfl
@[simp] theorem State.setPbuf_txs : (s.setPbuf m).stat.txs = s.stat.txs := rfl
@[simp] theorem State.setPbuf_configured : (s.setPbuf m).stat.configured = s.stat.configured := rfl
@[simp] theorem State.setPbuf_res : (s.setPbuf m).res = s.res := rfl
@[simp] theorem State.setPbuf_plen : (s.setPbuf m).plen = s.plen := rfl
@[simp] theorem State.setPbuf_cbuf : (s.setPbuf m).cbuf = s.cbuf := rfl
@[simp] theorem State.setPbuf_pbuf : (s.setPbuf m).pbuf = m := rfl
@[simp] theorem State.setPbuf_env : (s.setPbuf m).env = s.env := rfl
@[simp] theorem State.setPbuf_busy : (s.setPbuf m).busy = s.busy := rfl
@[simp] theorem State.setPbuf_pixels : (s.setPbuf m).pixels = s.pixels := rfl
@[simp] theorem State.setPbuf_ch : (s.setPbuf m).ch = s.ch := rfl
@[simp] theorem State.setPbuf_bits : (s.setPbuf m).bits = s.bits := rfl
@[simp] theorem State.setPbuf_live : (s.setPbuf m).live = s.live := rfl
@[simp] theorem State.setPbuf_orderCount : (s.setPbuf m).orderCount = s.orderCount := rfl

end

/-! ## setEnv -/

section
variable (s : State) (e : Env)

@[simp] theorem State.setEnv_conf : (s.setEnv e).conf = s.conf := rfl
@[simp] theorem State.setEnv_opnd : (s.setEnv e).opnd = s.opnd := rfl
@[simp] theorem State.setEnv_err : (s.setEnv e).stat.err = s.stat.err := rfl
@[simp] theorem State.setEnv_wdrop : (s.setEnv e).stat.wdrop = s.stat.wdrop := rfl
@[simp] theorem State.setEnv_txs : (s.setEnv e).stat.txs = s.stat.txs := rfl
@[simp] theorem State.setEnv_configured : (s.setEnv e).stat.configured = s.stat.configured := rfl
@[simp] theorem State.setEnv_res : (s.setEnv e).res = s.res := rfl
@[simp] theorem State.setEnv_plen : (s.setEnv e).plen = s.plen := rfl
@[simp] theorem State.setEnv_cbuf : (s.setEnv e).cbuf = s.cbuf := rfl
@[simp] theorem State.setEnv_pbuf : (s.setEnv e).pbuf = s.pbuf := rfl
@[simp] theorem State.setEnv_env : (s.setEnv e).env = e := rfl
@[simp] theorem State.setEnv_busy : (s.setEnv e).busy = s.busy := rfl
@[simp] theorem State.setEnv_pixels : (s.setEnv e).pixels = s.pixels := rfl
@[simp] theorem State.setEnv_ch : (s.setEnv e).ch = s.ch := rfl
@[simp] theorem State.setEnv_bits : (s.setEnv e).bits = s.bits := rfl
@[simp] theorem State.setEnv_live : (s.setEnv e).live = s.live := rfl
@[simp] theorem State.setEnv_orderCount : (s.setEnv e).orderCount = s.orderCount := rfl

end

/-! ## What the derived values are after the updates they depend on -/

@[simp] theorem State.setTxs_busy (s : State) (x : Txs) : (s.setTxs x).busy = decide (x = .active) := rfl

@[simp] theorem State.setConfigured_live (s : State) (b : Bool) :
    (s.setConfigured b).live = if b then s.pixels * s.ch else 0 := rfl

/-! ## The named effects, in terms of the updates -/

@[simp] theorem State.raise_eq (s : State) (e : Err) : s.raise e = s.setErr e := rfl
@[simp] theorem State.succeed_eq (s : State) : s.succeed = s.setErr .ok := rfl
@[simp] theorem State.dropWrite_eq (s : State) : s.dropWrite = s.setWdrop true := rfl
@[simp] theorem State.setInputs_eq (s : State) (is : List Input) :
    s.setInputs is = s.setEnv { s.env with inputs := is } := rfl
@[simp] theorem State.send_eq (s : State) (r : TxRequest) :
    s.send r = s.setEnv { s.env with txRequests := r :: s.env.txRequests } := rfl
@[simp] theorem State.setEnv_self (s : State) : s.setEnv s.env = s := rfl

@[simp] theorem State.setErr_setErr (s : State) (e f : Err) : (s.setErr e).setErr f = s.setErr f := rfl
@[simp] theorem State.setCbuf_setCbuf (s : State) (m n : Memory 8) : (s.setCbuf m).setCbuf n = s.setCbuf n := rfl
@[simp] theorem State.setEnv_setEnv (s : State) (e f : Env) : (s.setEnv e).setEnv f = s.setEnv f := rfl

/-- BUSY is TXS = ACTIVE (R35). -/
theorem State.busy_iff (s : State) : s.busy = true ↔ s.stat.txs = .active := by simp [State.busy]

theorem State.not_busy_iff (s : State) : s.busy = false ↔ s.stat.txs ≠ .active := by simp [State.busy]

/-- CH is 3 or 4 (R9). -/
theorem State.ch_cases (s : State) : s.ch = 3 ∨ s.ch = 4 := by
  unfold State.ch; split <;> simp

theorem State.ch_pos (s : State) : 0 < s.ch := by
  rcases s.ch_cases with h | h <;> omega

theorem State.bits_pos (s : State) : 0 < s.bits := by
  have := s.ch_pos; simp only [State.bits]; omega

theorem State.pixels_lt (s : State) : s.pixels < 65536 := s.conf.npix.isLt

/-- N × B + 1 fits PLEN (R41). -/
theorem State.plen_fits (s : State) : s.pixels * s.bits + 1 < 2 ^ 32 := by
  have h := s.pixels_lt
  have hb : s.bits ≤ 32 := by rcases s.ch_cases with h | h <;> simp [State.bits, h]
  have := Nat.mul_le_mul (Nat.le_of_lt_succ h) hb
  omega

theorem State.live_of_configured {s : State} (h : s.stat.configured = true) : s.live = s.pixels * s.ch := by
  simp [State.live, h]

theorem State.live_of_unconfigured {s : State} (h : s.stat.configured = false) : s.live = 0 := by
  simp [State.live, h]

end Sys2Proof.Machine
end

