-- ==== Sys2Proof/Laws/Memory.lean ====
section
/-! SUPPORT. The sparse memories: what a read returns after a write, the canonical form, and that equal contents in the
canonical form are equal lists. -/

namespace Sys2Proof.Machine.Memory

variable {w : Nat}

theorem read_append_of_notMem (m n : Memory w) (a : Nat) (h : ∀ c ∈ m, c.1 ≠ a) :
    read (m ++ n) a = read n a := by
  induction m with
  | nil => rfl
  | cons c m ih =>
    have hc : c.1 ≠ a := h c (by simp)
    have := ih fun d hd => h d (by simp [hd])
    obtain ⟨b, v⟩ := c
    have hb : a ≠ b := fun e => hc e.symm
    simp [read, hb, this]

theorem read_append_of_notMem_right (m n : Memory w) (a : Nat) (h : ∀ c ∈ n, c.1 ≠ a) :
    read (m ++ n) a = read m a := by
  induction m with
  | nil =>
    have := read_append_of_notMem n [] a h
    simpa [read] using this
  | cons c m ih =>
    obtain ⟨b, v⟩ := c
    by_cases hb : a = b <;> simp [read, hb, ih]

theorem read_of_notMem (m : Memory w) (a : Nat) (h : ∀ c ∈ m, c.1 ≠ a) : read m a = 0 := by
  simpa [read] using read_append_of_notMem m [] a h

/-- Keeping the cells whose index meets a test that `a` meets keeps the read at `a`. -/
theorem read_filter (m : Memory w) (p : Nat → Bool) (a : Nat) (h : p a = true) :
    read (m.filter fun c => p c.1) a = read m a := by
  induction m with
  | nil => rfl
  | cons c m ih =>
    obtain ⟨b, v⟩ := c
    by_cases hb : a = b
    · subst hb; simp [h, read]
    · by_cases hp : p b = true
      · simp [hp, read, hb, ih]
      · simp [hp, read, hb, ih]

theorem mem_cells {base : Nat} {vs : List (BitVec w)} {c : Nat × BitVec w} (h : c ∈ cells base vs) :
    base ≤ c.1 ∧ c.1 < base + vs.length := by
  induction vs generalizing base with
  | nil => simp [cells] at h
  | cons v vs ih =>
    simp only [cells] at h
    split at h
    · have := ih h; simp only [List.length_cons]; omega
    · rcases List.mem_cons.1 h with h | h
      · subst h; simp
      · have := ih h; simp only [List.length_cons]; omega

theorem read_cells (base : Nat) (vs : List (BitVec w)) (k : Nat) (h : k < vs.length) :
    read (cells base vs) (base + k) = vs[k] := by
  induction vs generalizing base k with
  | nil => simp at h
  | cons v vs ih =>
    cases k with
    | zero =>
      simp only [cells]
      split
      · rename_i hv
        rw [Nat.add_zero, read_of_notMem _ _ fun c hc => by have := (mem_cells hc).1; omega]
        simp [hv]
      · simp [read]
    | succ k =>
      have := ih (base + 1) k (by simpa using h)
      rw [show base + 1 + k = base + (k + 1) by omega] at this
      simp only [cells]
      split
      · simpa using this
      · simp [read, this]

/-- The read inside a written range. -/
theorem read_writeRange_in (m : Memory w) (base : Nat) (vs : List (BitVec w)) (k : Nat) (h : k < vs.length) :
    read (writeRange m base vs) (base + k) = vs[k] := by
  unfold writeRange
  rw [read_append_of_notMem_right, read_append_of_notMem, read_cells _ _ _ h]
  · intro c hc; have := (List.mem_filter.1 hc).2; simp at this; omega
  · intro c hc; have := (List.mem_filter.1 hc).2; simp at this; omega

/-- A write leaves every index outside its range alone. -/
theorem read_writeRange_out (m : Memory w) (base : Nat) (vs : List (BitVec w)) (a : Nat)
    (h : a < base ∨ base + vs.length ≤ a) : read (writeRange m base vs) a = read m a := by
  unfold writeRange
  rcases h with h | h
  · rw [read_append_of_notMem_right, read_append_of_notMem_right]
    · exact read_filter m (fun c => decide (c < base)) a (by simpa using h)
    · intro c hc; have := mem_cells hc; omega
    · intro c hc; have := (List.mem_filter.1 hc).2; simp at this; omega
  · rw [List.append_assoc, read_append_of_notMem, read_append_of_notMem]
    · exact read_filter m (fun c => decide (base + vs.length ≤ c)) a (by simpa using h)
    · intro c hc; have := mem_cells hc; omega
    · intro c hc; have := (List.mem_filter.1 hc).2; simp at this; omega

/-- Read after write, at any index. -/
theorem read_write (m : Memory w) (a b : Nat) (v : BitVec w) :
    read (write m a v) b = if b = a then v else read m b := by
  unfold write
  split
  · rename_i h; subst h
    simpa using read_writeRange_in m b [v] 0 (by simp)
  · exact read_writeRange_out m a [v] b (by simp only [List.length_cons, List.length_nil]; omega)

@[simp] theorem read_write_same (m : Memory w) (a : Nat) (v : BitVec w) : read (write m a v) a = v := by
  simp [read_write]

theorem read_write_other (m : Memory w) {a b : Nat} (v : BitVec w) (h : b ≠ a) :
    read (write m a v) b = read m b := by simp [read_write, h]

/-! ## The canonical form -/

theorem wfFrom_mono {lo lo' : Nat} {m : Memory w} (h : lo' ≤ lo) (hm : wfFrom lo m = true) : wfFrom lo' m = true := by
  cases m with
  | nil => rfl
  | cons c m =>
    simp only [wfFrom, Bool.and_eq_true, decide_eq_true_eq] at hm ⊢
    exact ⟨⟨by omega, hm.1.2⟩, hm.2⟩

theorem le_of_wfFrom {lo : Nat} {m : Memory w} (hm : wfFrom lo m = true) : ∀ c ∈ m, lo ≤ c.1 := by
  induction m generalizing lo with
  | nil => simp
  | cons d m ih =>
    simp only [wfFrom, Bool.and_eq_true, decide_eq_true_eq] at hm
    intro c hc
    rcases List.mem_cons.1 hc with rfl | hc
    · exact hm.1.1
    · have := ih hm.2 c hc; omega

/-- Two canonical pieces, the second one beginning where the first one has ended. -/
theorem wfFrom_append {lo mid : Nat} {m n : Memory w} (hm : wfFrom lo m = true) (hlt : ∀ c ∈ m, c.1 < mid)
    (hlo : lo ≤ mid) (hn : wfFrom mid n = true) : wfFrom lo (m ++ n) = true := by
  induction m generalizing lo with
  | nil => exact wfFrom_mono hlo hn
  | cons d m ih =>
    simp only [wfFrom, List.cons_append, Bool.and_eq_true, decide_eq_true_eq] at hm ⊢
    refine ⟨hm.1, ih hm.2 (fun c hc => hlt c (by simp [hc])) ?_⟩
    have := hlt d (by simp)
    omega

theorem wfFrom_filter {lo : Nat} {m : Memory w} (p : Nat × BitVec w → Bool) (hm : wfFrom lo m = true) :
    wfFrom lo (m.filter p) = true := by
  induction m generalizing lo with
  | nil => rfl
  | cons d m ih =>
    simp only [wfFrom, Bool.and_eq_true, decide_eq_true_eq] at hm
    by_cases hp : p d = true
    · simp only [List.filter_cons, hp, if_true, wfFrom, Bool.and_eq_true, decide_eq_true_eq]
      exact ⟨hm.1, ih hm.2⟩
    · simp only [List.filter_cons, hp]
      exact wfFrom_mono (by omega) (ih hm.2)

/-- A canonical list whose indices are all at least `mid` is canonical from `mid` on. -/
theorem wfFrom_raise {lo mid : Nat} {m : Memory w} (hm : wfFrom lo m = true) (h : ∀ c ∈ m, mid ≤ c.1) :
    wfFrom mid m = true := by
  cases m with
  | nil => rfl
  | cons d m =>
    simp only [wfFrom, Bool.and_eq_true, decide_eq_true_eq] at hm ⊢
    exact ⟨⟨h d (by simp), hm.1.2⟩, hm.2⟩

theorem wfFrom_cells (base : Nat) (vs : List (BitVec w)) : wfFrom base (cells base vs) = true := by
  induction vs generalizing base with
  | nil => rfl
  | cons v vs ih =>
    simp only [cells]
    split
    · exact wfFrom_mono (Nat.le_succ _) (ih _)
    · rename_i hv
      simpa [wfFrom, ih] using hv

/-- Every write keeps the canonical form. -/
theorem wf_writeRange {m : Memory w} (base : Nat) (vs : List (BitVec w)) (hm : wf m = true) :
    wf (writeRange m base vs) = true := by
  unfold wf writeRange
  refine wfFrom_append (mid := base + vs.length) (wfFrom_append (mid := base) ?_ ?_ (Nat.zero_le _) ?_) ?_
    (Nat.zero_le _) ?_
  · exact wfFrom_filter _ hm
  · intro c hc; simpa using (List.mem_filter.1 hc).2
  · exact wfFrom_cells _ _
  · intro c hc
    rcases List.mem_append.1 hc with hc | hc
    · have := (List.mem_filter.1 hc).2; simp at this; omega
    · exact (mem_cells hc).2
  · refine wfFrom_raise (wfFrom_filter _ hm) fun c hc => ?_
    simpa using (List.mem_filter.1 hc).2

theorem wf_write {m : Memory w} (a : Nat) (v : BitVec w) (hm : wf m = true) : wf (write m a v) = true :=
  wf_writeRange a [v] hm

/-- A listed cell is where it was or in the written range. -/
theorem mem_writeRange {m : Memory w} {base : Nat} {vs : List (BitVec w)} {c : Nat × BitVec w}
    (h : c ∈ writeRange m base vs) : c ∈ m ∨ (base ≤ c.1 ∧ c.1 < base + vs.length) := by
  unfold writeRange at h
  rcases List.mem_append.1 h with h | h
  · rcases List.mem_append.1 h with h | h
    · exact .inl (List.mem_filter.1 h).1
    · exact .inr (mem_cells h)
  · exact .inl (List.mem_filter.1 h).1

theorem mem_write {m : Memory w} {a : Nat} {v : BitVec w} {c : Nat × BitVec w} (h : c ∈ write m a v) :
    c ∈ m ∨ c.1 = a := by
  rcases mem_writeRange h with h | h
  · exact .inl h
  · right; simp at h; omega

/-- Equal contents in the canonical form are equal lists. -/
theorem eq_of_read_eq {lo : Nat} {m n : Memory w} (hm : wfFrom lo m = true) (hn : wfFrom lo n = true)
    (h : ∀ a, read m a = read n a) : m = n := by
  induction m generalizing lo n with
  | nil =>
    cases n with
    | nil => rfl
    | cons d n =>
      simp only [wfFrom, Bool.and_eq_true, decide_eq_true_eq] at hn
      have := h d.1
      exact absurd (by simpa [read] using this.symm) hn.1.2
  | cons c m ih =>
    simp only [wfFrom, Bool.and_eq_true, decide_eq_true_eq] at hm
    cases n with
    | nil =>
      have := h c.1
      exact absurd (by simpa [read] using this) hm.1.2
    | cons d n =>
      simp only [wfFrom, Bool.and_eq_true, decide_eq_true_eq] at hn
      obtain ⟨a, u⟩ := c
      obtain ⟨b, v⟩ := d
      simp only at hm hn
      have hab : a = b := by
        rcases Nat.lt_trichotomy a b with hlt | heq | hlt
        · have hz : read n a = 0 := read_of_notMem n a fun c hc => by have := le_of_wfFrom hn.2 c hc; omega
          have := h a
          simp [read, Nat.ne_of_lt hlt, hz] at this
          exact absurd this hm.1.2
        · exact heq
        · have hz : read m b = 0 := read_of_notMem m b fun c hc => by have := le_of_wfFrom hm.2 c hc; omega
          have := h b
          simp [read, Nat.ne_of_lt hlt, hz] at this
          exact absurd this.symm hn.1.2
      subst hab
      have huv : u = v := by simpa [read] using h a
      subst huv
      congr 1
      refine ih hm.2 hn.2 fun x => ?_
      by_cases hx : x = a
      · subst hx
        rw [read_of_notMem m x fun c hc => by have := le_of_wfFrom hm.2 c hc; omega,
          read_of_notMem n x fun c hc => by have := le_of_wfFrom hn.2 c hc; omega]
      · simpa [read, hx] using h x

/-- Memories in the canonical form are equal when every read is. -/
theorem ext_of_wf {m n : Memory w} (hm : wf m = true) (hn : wf n = true) (h : ∀ a, read m a = read n a) : m = n :=
  eq_of_read_eq hm hn h

end Sys2Proof.Machine.Memory
end

