-- ==== Sys2Proof/Laws/Commands.lean ====
section
/-! SUPPORT. What a command can do: its checks, its effect, and the serializer's. Later proofs cite these and do not unfold
`command` or `serialize`. -/

namespace Sys2Proof.Machine

/-! ## Checks -/

@[simp] theorem firstFailure_nil : firstFailure [] = none := rfl

@[simp] theorem firstFailure_cons (b : Bool) (e : Err) (cs : List (Bool × Err)) :
    firstFailure ((b, e) :: cs) = if b then some e else firstFailure cs := rfl

/-- A BUSY block refuses every command (R261). -/
theorem command_busy {s : State} (h : s.busy = true) (cs : List (Bool × Err))
    (e : Host.Outcome State Fault Refusal) : command s cs e = .next (s.raise .busy) := by
  simp [command, h]

/-- A command whose checks all pass has its effect. -/
theorem command_passes {s : State} (h : s.busy = false) {cs : List (Bool × Err)} (hc : firstFailure cs = none)
    (e : Host.Outcome State Fault Refusal) : command s cs e = e := by
  simp [command, h, hc]

/-- A command reports its first failing check and changes nothing else (R261, R263). -/
theorem command_fails {s : State} (h : s.busy = false) {cs : List (Bool × Err)} {x : Err}
    (hc : firstFailure cs = some x) (e : Host.Outcome State Fault Refusal) : command s cs e = .next (s.raise x) := by
  simp [command, h, hc]

/-- All that a command can do. -/
theorem command_cases {s t : State} {cs : List (Bool × Err)} {e : Host.Outcome State Fault Refusal}
    (h : command s cs e = .next t) :
    (s.busy = true ∧ t = s.raise .busy) ∨
    (s.busy = false ∧ ∃ x, firstFailure cs = some x ∧ t = s.raise x) ∨
    (s.busy = false ∧ firstFailure cs = none ∧ e = .next t) := by
  cases hb : s.busy with
  | true =>
    rw [command_busy hb] at h
    exact .inl ⟨rfl, by injection h with h; exact h.symm⟩
  | false =>
    cases hc : firstFailure cs with
    | none => exact .inr (.inr ⟨rfl, rfl, by rw [command_passes hb hc] at h; exact h⟩)
    | some x =>
      rw [command_fails hb hc] at h
      exact .inr (.inl ⟨rfl, x, rfl, by injection h with h; exact h.symm⟩)

/-! ## Zero fill -/

theorem read_zeroFill (m : Memory 8) (n a : Nat) :
    Memory.read (zeroFill m n) a = if a < n then 0 else Memory.read m a := by
  unfold zeroFill
  split
  · rename_i h
    have := Memory.read_writeRange_in m 0 (List.replicate n (0 : BitVec 8)) a (by simpa using h)
    simpa using this
  · exact Memory.read_writeRange_out m 0 _ a (.inr (by simp; omega))

theorem wf_zeroFill {m : Memory 8} (n : Nat) (h : Memory.wf m = true) : Memory.wf (zeroFill m n) = true :=
  Memory.wf_writeRange _ _ h

theorem Memory.cells_replicate_zero {w : Nat} (base n : Nat) : Memory.cells base (List.replicate n (0 : BitVec w)) = [] := by
  induction n generalizing base with
  | zero => rfl
  | succ n ih => simpa [List.replicate_succ, Memory.cells] using ih (base + 1)

/-- Zero filling lists no cell anew. -/
theorem mem_zeroFill {m : Memory 8} {n : Nat} {c : Nat × BitVec 8} (h : c ∈ zeroFill m n) : c ∈ m := by
  unfold zeroFill Memory.writeRange at h
  rw [Memory.cells_replicate_zero] at h
  simp at h
  exact h.1

/-! ## Channel orders -/

/-- A legal code has a row: the row of the table for its CH (R151, R152). -/
theorem orderRow_isSome_iff (s : State) :
    (orderRow s.conf.cfg.ch4 s.conf.cfg.order).isSome = true ↔ s.conf.cfg.order.toNat < s.orderCount := by
  unfold orderRow State.orderCount State.ch
  cases s.conf.cfg.ch4 <;> simp [rgbOrders, rgbwOrders]

/-- A row's facts: CH distinct offsets, each below CH (R154). -/
theorem orderRow_spec {ch4 : Bool} {order : BitVec 5} {row : List Nat} (h : orderRow ch4 order = some row) :
    row.length = (if ch4 then 4 else 3) ∧ row.Nodup ∧ ∀ o ∈ row, o < row.length := by
  have rgb : ∀ r ∈ rgbOrders, r.length = 3 ∧ r.Nodup ∧ ∀ o ∈ r, o < r.length := by decide
  have rgbw : ∀ r ∈ rgbwOrders, r.length = 4 ∧ r.Nodup ∧ ∀ o ∈ r, o < r.length := by decide
  cases ch4 with
  | false => exact rgb row (List.mem_of_getElem? h)
  | true => exact rgbw row (List.mem_of_getElem? h)

/-- The row of a state's ORDER has CH offsets, each below CH. -/
theorem State.orderRow_spec {s : State} {row : List Nat} (h : orderRow s.conf.cfg.ch4 s.conf.cfg.order = some row) :
    row.length = s.ch ∧ row.Nodup ∧ ∀ o ∈ row, o < s.ch := by
  obtain ⟨hl, hn, hb⟩ := Machine.orderRow_spec h
  have : row.length = s.ch := hl
  exact ⟨this, hn, fun o ho => this ▸ hb o ho⟩

theorem off_eq_some {ch4 : Bool} {order : BitVec 5} {c : Channel} {o : Nat} :
    off ch4 order c = some o ↔ ∃ row, orderRow ch4 order = some row ∧ row[c.column]? = some o := by
  unfold off
  cases orderRow ch4 order <;> simp

/-! ## Writing channels -/

theorem read_writeChannels_out (m : Memory 8) (base : Nat) (row : List Nat) (px : List Byte) (a : Nat)
    (h : ∀ o ∈ row, a ≠ base + o) : Memory.read (writeChannels m base row px) a = Memory.read m a := by
  induction row generalizing m px with
  | nil => simp [writeChannels]
  | cons o row ih =>
    cases px with
    | nil => simp [writeChannels]
    | cons v px =>
      rw [writeChannels, ih _ _ fun o' ho' => h o' (by simp [ho'])]
      exact Memory.read_write_other m v (h o (by simp))

/-- Each channel lands at its offset (R155). -/
theorem read_writeChannels_in (m : Memory 8) (base : Nat) {row : List Nat} {px : List Byte} {k o : Nat} {v : Byte}
    (hn : row.Nodup) (ho : row[k]? = some o) (hv : px[k]? = some v) :
    Memory.read (writeChannels m base row px) (base + o) = v := by
  induction row generalizing m px k with
  | nil => simp at ho
  | cons o' row ih =>
    cases px with
    | nil => simp at hv
    | cons v' px =>
      rw [writeChannels]
      have hn' := List.nodup_cons.1 hn
      cases k with
      | zero =>
        simp at ho hv
        subst ho hv
        rw [read_writeChannels_out]
        · simp
        · intro o'' h'' e
          have : o' = o'' := by omega
          exact hn'.1 (this ▸ h'')
      | succ k => exact ih _ hn'.2 (by simpa using ho) (by simpa using hv)

theorem wf_writeChannels {m : Memory 8} (base : Nat) (row : List Nat) (px : List Byte) (h : Memory.wf m = true) :
    Memory.wf (writeChannels m base row px) = true := by
  induction row generalizing m px with
  | nil => simpa [writeChannels] using h
  | cons o row ih =>
    cases px with
    | nil => simpa [writeChannels] using h
    | cons v px => exact ih px (Memory.wf_write _ _ h)

theorem mem_writeChannels {m : Memory 8} {base : Nat} {row : List Nat} {px : List Byte} {c : Nat × BitVec 8}
    (h : c ∈ writeChannels m base row px) : c ∈ m ∨ ∃ o ∈ row, c.1 = base + o := by
  induction row generalizing m px with
  | nil => exact .inl (by simpa [writeChannels] using h)
  | cons o row ih =>
    cases px with
    | nil => exact .inl (by simpa [writeChannels] using h)
    | cons v px =>
      rcases ih h with h | ⟨o', ho', he⟩
      · rcases Memory.mem_write h with h | h
        · exact .inl h
        · exact .inr ⟨o, by simp, h⟩
      · exact .inr ⟨o', by simp [ho'], he⟩

/-! ## Serialize -/

/-- All that `serialize` can do when it goes on. -/
theorem serialize_cases {s t : State} {px : List Byte} {i : Nat} (h : serialize s px i = .next t) :
    ∃ row, orderRow s.conf.cfg.ch4 s.conf.cfg.order = some row ∧
      t = (s.setCbuf (writeChannels s.cbuf (i * s.ch) row px)).succeed := by
  unfold serialize at h
  split at h
  · exact absurd h (by simp)
  · rename_i row hr
    exact ⟨row, hr, by injection h with h; exact h.symm⟩

/-- With a legal ORDER, `serialize` goes on. -/
theorem serialize_completes {s : State} (h : s.conf.cfg.order.toNat < s.orderCount) (px : List Byte) (i : Nat) :
    ∃ row, orderRow s.conf.cfg.ch4 s.conf.cfg.order = some row ∧
      serialize s px i = .next (s.setCbuf (writeChannels s.cbuf (i * s.ch) row px)).succeed := by
  have := (orderRow_isSome_iff s).2 h
  obtain ⟨row, hr⟩ := Option.isSome_iff_exists.1 this
  exact ⟨row, hr, by simp [serialize, hr]⟩

end Sys2Proof.Machine
end

