-- ==== Sys2Proof/Laws/Rendering.lean ====
section
/-! SUPPORT. What RENDER builds, descriptor by descriptor. -/

namespace Sys2Proof.Machine

@[simp] theorem State.length_sequence (s : State) : s.sequence.length = s.pixels * s.bits + 1 := by
  simp [State.sequence]

theorem State.sequence_bit (s : State) {m : Nat} (h : m < s.pixels * s.bits) :
    s.sequence[m]'(by simp; omega) = bitDescriptor s.conf (s.streamBit m) := by
  simp [State.sequence, h]

theorem State.sequence_term (s : State) : s.sequence[s.pixels * s.bits]'(by simp) = term := by
  simp [State.sequence]

section
variable (s : State)

@[simp] theorem State.build_conf : s.build.conf = s.conf := rfl
@[simp] theorem State.build_opnd : s.build.opnd = s.opnd := rfl
@[simp] theorem State.build_stat : s.build.stat = s.stat := rfl
@[simp] theorem State.build_res : s.build.res = s.res := rfl
@[simp] theorem State.build_cbuf : s.build.cbuf = s.cbuf := rfl
@[simp] theorem State.build_env : s.build.env = s.env := rfl
@[simp] theorem State.build_pbuf : s.build.pbuf = s.pbuf.writeRange 0 s.sequence := rfl

@[simp] theorem State.build_plen : s.build.plen.toNat = s.pixels * s.bits + 1 := by
  have := s.plen_fits
  simp only [State.build, State.setPlen_plen, BitVec.toNat_ofNat]
  exact Nat.mod_eq_of_lt this

/-- A data descriptor of the built sequence (R231). -/
theorem State.read_build_bit {m : Nat} (h : m < s.pixels * s.bits) :
    s.build.pbuf.read m = bitDescriptor s.conf (s.streamBit m) := by
  have := Memory.read_writeRange_in s.pbuf 0 s.sequence m (by simp; omega)
  rw [Nat.zero_add] at this
  rw [State.build_pbuf, this, s.sequence_bit h]

/-- The terminator (R234). -/
theorem State.read_build_term : s.build.pbuf.read (s.pixels * s.bits) = term := by
  have := Memory.read_writeRange_in s.pbuf 0 s.sequence (s.pixels * s.bits) (by simp)
  rw [Nat.zero_add] at this
  rw [State.build_pbuf, this, s.sequence_term]

/-- The build writes nothing beyond the terminator. -/
theorem State.read_build_out {k : Nat} (h : s.pixels * s.bits < k) : s.build.pbuf.read k = s.pbuf.read k := by
  rw [State.build_pbuf]
  exact Memory.read_writeRange_out _ _ _ _ (.inr (by simp; omega))

end

/-- A waveform without a zero-tick segment reaches the line as it is (R242, R307). -/
theorem emitWave_of_forall {wave : List Segment} (nth : Nat) (h : ∀ g ∈ wave, g.2 ≠ 0) : emitWave nth wave = wave := by
  unfold emitWave
  rw [if_pos (List.all_eq_true.2 fun g hg => decide_eq_true (h g hg))]

/-- The stream depends only on the pixels' bytes, N and CH. -/
theorem State.streamBit_congr {s t : State} (hc : s.conf = t.conf) {m : Nat} (hm : m < s.pixels * s.bits)
    (h : ∀ a, a < s.pixels * s.ch → s.cbuf.read a = t.cbuf.read a) : s.streamBit m = t.streamBit m := by
  have hch : t.ch = s.ch := by simp [State.ch, hc]
  have hbits : t.bits = s.bits := by simp [State.bits, hch]
  unfold State.streamBit State.pixelWord State.pixelBytes
  rw [hbits, hch]
  congr 2
  refine List.map_congr_left fun k hk => h _ ?_
  have hk := List.mem_range.1 hk
  have hi : m / s.bits < s.pixels := Nat.div_lt_of_lt_mul (by rwa [Nat.mul_comm])
  calc m / s.bits * s.ch + k < m / s.bits * s.ch + s.ch := by omega
    _ = (m / s.bits + 1) * s.ch := by rw [Nat.add_mul, Nat.one_mul]
    _ ≤ s.pixels * s.ch := Nat.mul_le_mul_right _ hi

end Sys2Proof.Machine
end

