-- ==== Sys2Proof/Laws/Exec.lean ====
section
/-! SUPPORT. One inversion lemma per command: all that it can do when it goes on. Claims over all commands cite `exec_cases`. -/

namespace Sys2Proof.Machine

/-- An outcome that is a known next state. -/
theorem next_inj {s t : State} (h : (Host.Outcome.next s : Host.Outcome State Fault Refusal) = .next t) : t = s := by
  injection h with h; exact h.symm

/-- The effect of each command whose checks have all passed. -/
def Effect (i : Instr) (s t : State) : Prop :=
  match i with
  | .configure => t = s.bindAndConfigure
  | .release => t = ((((s.send .unbind).setConfigured false).setPlen 0).setTxs .idle).succeed
  | .setRgb n => ∃ row, orderRow s.conf.cfg.ch4 s.conf.cfg.order = some row ∧
      t = (s.setCbuf (writeChannels s.cbuf (n * s.ch) row (s.storedChannels (unpackRgb s.opnd.opa)))).succeed
  | .setRgbw n => ∃ row, orderRow s.conf.cfg.ch4 s.conf.cfg.order = some row ∧
      t = (s.setCbuf (writeChannels s.cbuf (n * s.ch) row (unpackRgbw s.opnd.opa).channels)).succeed
  | .setHsb n => ∃ row, orderRow s.conf.cfg.ch4 s.conf.cfg.order = some row ∧
      t = (s.setCbuf (writeChannels s.cbuf (n * s.ch) row (s.storedChannels s.hsbOperand))).succeed
  | .clear => t = (s.setCbuf (zeroFill s.cbuf s.live)).succeed
  | .render => t = ((s.build.setTxs .active).send (.play (s.pixels * s.bits))).succeed
  | .convHsb2rgb => t = (s.setRes (packRgb s.hsbOperand)).succeed
  | .convRgb2rgbwSimple => t = (s.setRes (packRgbw (rgbToRgbwSimple (unpackRgb s.opnd.opa)))).succeed
  | .convRgb2rgbwComplex => t = (s.setRes (packRgbw (rgbToRgbwComplex (unpackRgb s.opnd.opa)))).succeed

/-- The checks of each command after BUSY, in their order (R261). -/
def checksOf (i : Instr) (s : State) : List (Bool × Err) :=
  match i with
  | .configure =>
    [(s.stat.configured, .alreadyConfigured),
     (decide (s.orderCount ≤ s.conf.cfg.order.toNat), .config),
     (decide (s.env.capBytes < s.pixels * s.ch), .config)]
  | .release => [(!s.stat.configured, .notConfigured)]
  | .setRgb n => [(!s.stat.configured, .notConfigured), (decide (s.pixels ≤ n), .index)]
  | .setRgbw n =>
    [(!s.stat.configured, .notConfigured), (decide (s.ch = 3), .mismatch), (decide (s.pixels ≤ n), .index)]
  | .setHsb n => [(!s.stat.configured, .notConfigured), (decide (s.pixels ≤ n), .index)]
  | .clear => [(!s.stat.configured, .notConfigured)]
  | .render => [(!s.stat.configured, .notConfigured)]
  | .convHsb2rgb => []
  | .convRgb2rgbwSimple => []
  | .convRgb2rgbwComplex => []

/-- A command's own error is raised by its first failing check. -/
theorem exec_fails {i : Instr} {s : State} {x : Err} (hb : s.busy = false) (hc : firstFailure (checksOf i s) = some x) :
    exec i s = .next (s.raise x) := by
  cases i <;> exact command_fails hb hc _

/-- A BUSY block refuses every command (R261). -/
theorem exec_busy {s : State} (i : Instr) (hb : s.busy = true) : exec i s = .next (s.raise .busy) := by
  cases i <;> exact command_busy hb _ _

/-- All that a command can do when it goes on: the BUSY refusal, its first failing check, or its effect. -/
theorem exec_cases {i : Instr} {s t : State} (h : exec i s = .next t) :
    (s.busy = true ∧ t = s.raise .busy) ∨
    (s.busy = false ∧ ∃ x, firstFailure (checksOf i s) = some x ∧ t = s.raise x) ∨
    (s.busy = false ∧ firstFailure (checksOf i s) = none ∧ Effect i s t) := by
  cases i <;> rcases command_cases h with hc | hc | ⟨hb, hf, he⟩ <;> first
    | exact .inl hc
    | exact .inr (.inl hc)
    | exact .inr (.inr ⟨hb, hf, next_inj he⟩)
    | exact .inr (.inr ⟨hb, hf, serialize_cases he⟩)

/-- A command whose checks have all passed goes on with its effect, for a legal ORDER. -/
theorem exec_completes {i : Instr} {s : State} (hb : s.busy = false) (hc : firstFailure (checksOf i s) = none)
    (ho : s.conf.cfg.order.toNat < s.orderCount) : ∃ t, exec i s = .next t ∧ Effect i s t := by
  cases i <;> first
    | exact ⟨_, command_passes hb hc _, rfl⟩
    | (obtain ⟨row, hr, he⟩ := serialize_completes ho _ _
       exact ⟨_, (command_passes hb hc _).trans he, row, hr, rfl⟩)

/-- CONFIGURE's effect where BIND is answered ok. -/
theorem State.bindAndConfigure_ok {s : State} (h : s.bindAnswer = true) :
    s.bindAndConfigure =
      ((((s.bind.setCbuf (zeroFill s.cbuf (s.pixels * s.ch))).setPlen 0).setTxs .idle).setConfigured true).succeed := by
  simp [State.bindAndConfigure, h]

/-- CONFIGURE's effect where BIND is answered error (R191, R263). -/
theorem State.bindAndConfigure_refused {s : State} (h : s.bindAnswer = false) :
    s.bindAndConfigure = s.bind.raise .config := by
  simp [State.bindAndConfigure, h]

section
variable (s : State)

@[simp] theorem State.bind_conf : s.bind.conf = s.conf := rfl
@[simp] theorem State.bind_opnd : s.bind.opnd = s.opnd := rfl
@[simp] theorem State.bind_stat : s.bind.stat = s.stat := rfl
@[simp] theorem State.bind_res : s.bind.res = s.res := rfl
@[simp] theorem State.bind_plen : s.bind.plen = s.plen := rfl
@[simp] theorem State.bind_cbuf : s.bind.cbuf = s.cbuf := rfl
@[simp] theorem State.bind_pbuf : s.bind.pbuf = s.pbuf := rfl
@[simp] theorem State.bind_env : s.bind.env =
    { s.env with
      bindAnswers := s.env.bindAnswers.tail
      bindDraws := s.env.bindDraws + 1
      txRequests := .bind s.conf.txcfg :: s.env.txRequests } := rfl

end

end Sys2Proof.Machine
end

