-- ==== Sys2Proof/Laws/Access.lean ====
section
/-! SUPPORT. What a Host access can do, and what one step can do. Claims over all steps cite `step_cases` and
`busWrite_cases`. -/

namespace Sys2Proof.Machine

/-! ## Offsets -/

@[simp] theorem regAt_offset (r : Reg) : regAt r.offset.toNat = some r := by cases r <;> rfl

/-- Only a register's own offset holds it (R23). -/
theorem regAt_eq_some {o : Offset} {r : Reg} (h : regAt o.toNat = some r) : o = r.offset := by
  unfold regAt at h
  split at h <;> first | (injection h with h; subst h; exact BitVec.eq_of_toNat_eq (by assumption)) | simp at h

@[simp] theorem regionOf_offset (r : Reg) : regionOf r.offset.toNat = .registers := by cases r <;> rfl

@[simp] theorem wellFormedAccess_offset (r : Reg) : wellFormedAccess r.offset.toNat 4 = true := by cases r <;> rfl

/-- A 32-bit read at a register's offset returns the register (R23). -/
@[simp] theorem State.busRead_reg (s : State) (r : Reg) : s.busRead r.offset 4 = s.readReg r := by
  simp [State.busRead]

/-- A 32-bit write at a register's offset is a write to the register (R23). -/
@[simp] theorem busWrite_reg (s : State) (r : Reg) (v : Word) : busWrite r.offset 4 v s = writeReg r v s := by
  simp [busWrite]

/-! ## Issuing a command -/

/-- A word that decodes to a command runs it (R90, R261). -/
theorem issue_instr {w : Word} {i : Instr} (h : decode w = .instr i) (s : State) : issue w s = exec i s := by
  unfold issue
  split
  · rename_i hb; exact (exec_busy i hb).symm
  · simp [h]

/-- All that a CMD write can do when PXE goes on (R261). -/
theorem issue_cases {w : Word} {s t : State} (h : issue w s = .next t) :
    (s.busy = true ∧ t = s.raise .busy) ∨
    (s.busy = false ∧ (∃ x, decode w = .illegal x) ∧ t = s.raise .illegal) ∨
    (s.busy = false ∧ ∃ i, decode w = .instr i ∧ exec i s = .next t) := by
  unfold issue at h
  split at h
  · rename_i hb; exact .inl ⟨hb, next_inj h⟩
  · rename_i hb
    have hb : s.busy = false := by simpa using hb
    cases hd : decode w with
    | illegal x => rw [hd] at h; exact .inr (.inl ⟨hb, ⟨x, rfl⟩, next_inj h⟩)
    | instr i => rw [hd] at h; exact .inr (.inr ⟨hb, i, rfl, h⟩)

/-! ## The colour window's writes -/

/-- A window write changes CBUF and WDROP alone. -/
theorem State.writeColour_frame (s : State) (a : Nat) (bs : List Byte) :
    ∃ m b, s.writeColour a bs = (s.setCbuf m).setWdrop b := by
  induction bs generalizing s a with
  | nil => exact ⟨s.cbuf, s.stat.wdrop, rfl⟩
  | cons v bs ih =>
    obtain ⟨m, b, h⟩ := ih (s.writeColourByte a v) (a + 1)
    refine ⟨m, b, ?_⟩
    rw [State.writeColour, h]
    unfold State.writeColourByte
    split <;> rfl

/-- What a window write leaves at each byte (R64). -/
theorem State.read_writeColour (s : State) (a : Nat) (bs : List Byte) (c : Nat) :
    (s.writeColour a bs).cbuf.read c =
      if h : (a ≤ c ∧ c < a + bs.length) ∧ c < s.live ∧ s.busy = false then bs[c - a]'(by omega)
      else s.cbuf.read c := by
  induction bs generalizing s a with
  | nil =>
    have : ¬ ((a ≤ c ∧ c < a + ([] : List Byte).length) ∧ c < s.live ∧ s.busy = false) := by
      simp only [List.length_nil]; omega
    simp only [dif_neg this, State.writeColour]
  | cons v bs ih =>
    have hl : (s.writeColourByte a v).live = s.live := by unfold State.writeColourByte; split <;> rfl
    have hb : (s.writeColourByte a v).busy = s.busy := by unfold State.writeColourByte; split <;> rfl
    rw [State.writeColour, ih]
    simp only [hl, hb, List.length_cons]
    by_cases hg : c < s.live ∧ s.busy = false
    · by_cases ha : c = a
      · subst ha
        rw [dif_neg fun h => absurd h.1.1 (by omega), dif_pos ⟨⟨by omega, by omega⟩, hg⟩]
        simp [State.writeColourByte, hg]
      · have hr : (s.writeColourByte a v).cbuf.read c = s.cbuf.read c := by
          unfold State.writeColourByte
          split
          · exact Memory.read_write_other _ _ ha
          · rfl
        by_cases hc : a ≤ c ∧ c < a + (bs.length + 1)
        · rw [dif_pos ⟨⟨by omega, by omega⟩, hg⟩, dif_pos ⟨hc, hg⟩]
          have : c - a = (c - (a + 1)) + 1 := by omega
          simp [this]
        · rw [dif_neg fun h => hc ⟨by omega, by omega⟩, dif_neg fun h => hc h.1, hr]
    · rw [dif_neg (by tauto), dif_neg (by tauto)]
      unfold State.writeColourByte
      split
      · rename_i h
        refine Memory.read_write_other _ _ fun e => ?_
        subst e; exact hg h
      · rfl

/-- A window write sets WDROP exactly when it drops a byte (R64). -/
theorem State.wdrop_writeColour (s : State) (a : Nat) (bs : List Byte) :
    (s.writeColour a bs).stat.wdrop =
      (s.stat.wdrop || (decide (0 < bs.length) && (s.busy || decide (s.live < a + bs.length)))) := by
  induction bs generalizing s a with
  | nil => simp [State.writeColour]
  | cons v bs ih =>
    have hl : (s.writeColourByte a v).live = s.live := by unfold State.writeColourByte; split <;> rfl
    have hb : (s.writeColourByte a v).busy = s.busy := by unfold State.writeColourByte; split <;> rfl
    rw [State.writeColour, ih, hl, hb]
    unfold State.writeColourByte
    split
    · rename_i h
      cases bs with
      | nil => simp [h.2]; omega
      | cons b bs =>
        have : s.live < a + 1 + (bs.length + 1) ↔ s.live < a + (bs.length + 1 + 1) := by omega
        simp [h.2, this]
    · rename_i h
      simp only [State.dropWrite_eq, State.setWdrop_wdrop, Bool.true_or]
      cases hbz : s.busy with
      | true => simp
      | false =>
        have : s.live ≤ a := Nat.le_of_not_lt fun hlt => h ⟨hlt, hbz⟩
        simp [show s.live < a + (bs.length + 1) by omega]

theorem State.wf_writeColour {s : State} (a : Nat) (bs : List Byte) (h : Memory.wf s.cbuf = true) :
    Memory.wf (s.writeColour a bs).cbuf = true := by
  induction bs generalizing s a with
  | nil => exact h
  | cons v bs ih =>
    refine ih _ ?_
    unfold State.writeColourByte
    split
    · exact Memory.wf_write _ _ h
    · exact h

/-- A window write lists no cell at or beyond LIVE. -/
theorem State.mem_writeColour {s : State} {a : Nat} {bs : List Byte} {c : Nat × BitVec 8}
    (h : c ∈ (s.writeColour a bs).cbuf) : c ∈ s.cbuf ∨ c.1 < s.live := by
  induction bs generalizing s a with
  | nil => exact .inl h
  | cons v bs ih =>
    rcases ih h with h | h
    · unfold State.writeColourByte at h
      split at h
      · rename_i hg
        rcases Memory.mem_write h with h | h
        · exact .inl h
        · exact .inr (h ▸ hg.1)
      · exact .inl h
    · have : (s.writeColourByte a v).live = s.live := by unfold State.writeColourByte; split <;> rfl
      exact .inr (this ▸ h)

/-! ## All that a Host access and a step can do -/

/-- All that a Host write can do when PXE goes on. -/
theorem busWrite_cases {o : Offset} {n : Nat} {v : Word} {s t : State} (h : busWrite o n v s = .next t) :
    t = s.dropWrite ∨
    (∃ c, s.stat.configured = false ∧ t = s.setConf c) ∨
    (∃ r, t = s.setOpnd r) ∨
    (o = Reg.status.offset ∧ n = 4 ∧ v.getLsbD 2 = true ∧ t = s.setWdrop false) ∨
    t = s ∨
    (o = Reg.cmd.offset ∧ n = 4 ∧ issue v s = .next t) ∨
    (∃ a bs, t = s.writeColour a bs) := by
  have conf : ∀ c, s.writeConf c = t → t = s.dropWrite ∨ ∃ c, s.stat.configured = false ∧ t = s.setConf c := by
    intro c hc
    unfold State.writeConf at hc
    split at hc
    · exact .inl hc.symm
    · rename_i hn; exact .inr ⟨c, by simpa using hn, hc.symm⟩
  unfold busWrite at h
  split at h
  case isFalse => exact .inl (next_inj h)
  case isTrue hw =>
    split at h
    case h_1 hr =>
      split at h
      case h_2 => exact .inl (next_inj h)
      case h_1 r hreg =>
        have hn : n = 4 := by
          unfold wellFormedAccess at hw; rw [hr] at hw; simp at hw; exact hw.1
        cases r <;> simp only [writeReg] at h
        case cmd => exact .inr (.inr (.inr (.inr (.inr (.inl ⟨regAt_eq_some hreg, hn, h⟩)))))
        case status =>
          have := next_inj h
          unfold State.writeStatus at this
          split at this
          · rename_i hv; exact .inr (.inr (.inr (.inl ⟨regAt_eq_some hreg, hn, hv, this⟩)))
          · exact .inr (.inr (.inr (.inr (.inl this))))
        case res => exact .inl (next_inj h)
        case plen => exact .inl (next_inj h)
        case opa => exact .inr (.inr (.inl ⟨_, next_inj h⟩))
        case oph => exact .inr (.inr (.inl ⟨_, next_inj h⟩))
        case ops => exact .inr (.inr (.inl ⟨_, next_inj h⟩))
        case opb => exact .inr (.inr (.inl ⟨_, next_inj h⟩))
        all_goals
          rcases conf _ (next_inj h).symm with hc | hc
          · exact .inl hc
          · exact .inr (.inl hc)
    case h_2 => exact .inr (.inr (.inr (.inr (.inr (.inr ⟨_, _, next_inj h⟩)))))
    case h_3 => exact .inl (next_inj h)
    case h_4 => exact .inl (next_inj h)

/-- All that one step can do when PXE goes on. -/
theorem step_cases {s t : State} (h : step s = .next t) :
    (s.env.inputs = [] ∧ t = s) ∨
    (∃ a rest, s.env.inputs = .host a :: rest ∧ hostAccess a (s.setInputs rest) = .next t) ∨
    (∃ e rest, s.env.inputs = .tx e :: rest ∧ t = txEvent e (s.setInputs rest)) ∨
    (∃ rest, s.env.inputs = .reset :: rest ∧ t = (s.setInputs rest).afterReset) := by
  unfold step at h
  split at h
  · rename_i hi; exact .inl ⟨hi, next_inj h⟩
  · rename_i i rest hi
    cases i with
    | host a => exact .inr (.inl ⟨a, rest, hi, h⟩)
    | otherHost a => exact absurd h (by simp [consume])
    | tx e => exact .inr (.inr (.inl ⟨e, rest, hi, next_inj h⟩))
    | reset => exact .inr (.inr (.inr ⟨rest, hi, next_inj h⟩))

end Sys2Proof.Machine
end

