-- ==== Sys2Proof/Laws/Decoding.lean ====
section
/-! SUPPORT. The fields of an encoded word. -/

namespace Sys2Proof

theorem opcField_encode (i : Instr) : opcField (encode i) = opcode i := by
  simp only [opcField, encode]
  ext k hk
  simp only [BitVec.getElem_extractLsb', BitVec.getLsbD_append]
  simp [show ¬ (24 + k < 16) by omega, show 24 + k - 16 = 8 + k by omega, ← BitVec.getLsbD_eq_getElem]

theorem rsvField_encode (i : Instr) : rsvField (encode i) = 0 := by
  simp only [rsvField, encode]
  ext k hk
  simp only [BitVec.getElem_extractLsb', BitVec.getLsbD_append]
  simp [show ¬ (16 + k < 16) by omega, show 16 + k - 16 = k by omega, show k < 8 by omega]

theorem indexField_encode (i : Instr) : indexField (encode i) = indexBits i := by
  simp only [indexField, encode]
  ext k hk
  simp only [BitVec.getElem_extractLsb', BitVec.getLsbD_append]
  simp [show k < 16 by omega, ← BitVec.getLsbD_eq_getElem]

/-- A word is its three fields (R90). -/
theorem word_eq_fields (w : Word) : w = opcField w ++ rsvField w ++ indexField w := by
  apply BitVec.eq_of_getLsbD_eq
  intro k hk
  simp only [opcField, rsvField, indexField, BitVec.getLsbD_append, BitVec.getLsbD_extractLsb']
  split
  · simp [*]
  · split
    · simp [*, show 16 + (k - 16) = k by omega]
    · simp [*, show 24 + (k - 16 - 8) = k by omega]
      omega

/-- Bits [23:0] are RSV and INDEX (R90). -/
theorem cnField_eq (w : Word) : cnField w = rsvField w ++ indexField w := by
  apply BitVec.eq_of_getLsbD_eq
  intro k hk
  simp only [cnField, rsvField, indexField, BitVec.getLsbD_append, BitVec.getLsbD_extractLsb']
  split
  · simp [*]
  · simp [*, show 16 + (k - 16) = k by omega]
    omega

/-- The four bytes of a word, in the bus order, make it again (R62). -/
theorem wordOfBytes_bytesOfWord (w : Word) :
    wordOfBytes (byteOfWord w 0) (byteOfWord w 1) (byteOfWord w 2) (byteOfWord w 3) = w := by
  simp only [wordOfBytes, byteOfWord]
  ext k hk
  simp only [BitVec.getElem_append, BitVec.getElem_extractLsb']
  split
  · simp [BitVec.getLsbD_eq_getElem hk]
  · split
    · simp [show 8 + (k - 8) = k by omega, BitVec.getLsbD_eq_getElem hk]
    · split
      · simp [show 16 + (k - 8 - 8) = k by omega, BitVec.getLsbD_eq_getElem hk]
      · simp [show 24 + (k - 8 - 8 - 8) = k by omega, BitVec.getLsbD_eq_getElem hk]

end Sys2Proof
end

