-- ==== Sys2Proof/Laws/PerInstr.lean ====
section
/-! SUPPORT. The family Table: each command's word meets its row of the opcode map, fixed bits (match / mask) of
30_encoding.md R94. -/

namespace Sys2Proof.Laws.Table

/-- The mask of a command's row (R94). -/
def mask : Instr → Word
  | .setRgb _ => 0xFFFF0000
  | .setRgbw _ => 0xFFFF0000
  | .setHsb _ => 0xFFFF0000
  | .configure => 0xFFFFFFFF
  | .release => 0xFFFFFFFF
  | .clear => 0xFFFFFFFF
  | .render => 0xFFFFFFFF
  | .convHsb2rgb => 0xFFFFFFFF
  | .convRgb2rgbwSimple => 0xFFFFFFFF
  | .convRgb2rgbwComplex => 0xFFFFFFFF

/-- The match value of a command's row (R94). -/
def fixedBits : Instr → Word
  | .configure => 0x01000000
  | .release => 0x02000000
  | .setRgb _ => 0x10000000
  | .setRgbw _ => 0x11000000
  | .setHsb _ => 0x12000000
  | .clear => 0x18000000
  | .render => 0x20000000
  | .convHsb2rgb => 0x30000000
  | .convRgb2rgbwSimple => 0x31000000
  | .convRgb2rgbwComplex => 0x32000000

/-- A command's word under its row's mask is its row's match value. -/
abbrev Statement (i : Instr) : Prop := encode i &&& mask i = fixedBits i

/-- The low half of a word that ends in a 16-bit field is masked away. -/
theorem high_half (x y : BitVec 16) : (x ++ y : Word) &&& 0xFFFF0000#32 = x ++ (0#16 : BitVec 16) := by
  have : (0xFFFF0000#32 : Word) = BitVec.allOnes 16 ++ (0#16 : BitVec 16) := by decide
  rw [this, BitVec.and_append, BitVec.and_allOnes, BitVec.and_zero]

/-- A CI word under the mask of its row. -/
theorem ci_masked (opc : BitVec 8) (y : BitVec 16) :
    (opc ++ (0 : BitVec 8) ++ y : Word) &&& 0xFFFF0000#32 = opc ++ (0 : BitVec 8) ++ (0#16 : BitVec 16) :=
  high_half _ _

theorem configure : Statement .configure := by decide
theorem release : Statement .release := by decide
theorem setRgb (index : Nat) : Statement (.setRgb index) := (ci_masked 0x10 _).trans rfl
theorem setRgbw (index : Nat) : Statement (.setRgbw index) := (ci_masked 0x11 _).trans rfl
theorem setHsb (index : Nat) : Statement (.setHsb index) := (ci_masked 0x12 _).trans rfl
theorem clear : Statement .clear := by decide
theorem render : Statement .render := by decide
theorem convHsb2rgb : Statement .convHsb2rgb := by decide
theorem convRgb2rgbwSimple : Statement .convRgb2rgbwSimple := by decide
theorem convRgb2rgbwComplex : Statement .convRgb2rgbwComplex := by decide

end Sys2Proof.Laws.Table
end

