-- ==== Sys2Proof/Tests/Slice0.lean ====
section
/-! SUPPORT. Tests on values of the spec (95_test_vectors.md, 30_encoding.md R99) and, for each statement with hypotheses, a
witness: a state and operands that meet them. A file of fixed values: it shows no property of the model by itself. -/

namespace Sys2Proof.Tests

open Sys2Proof.Machine

-- The proofs are checked one after another: in parallel their threads take more memory than the check allows.
set_option Elab.async false

/-! ## Building and viewing small states -/

/-- An unconfigured PXE with staged registers, the ticks 16/34/32/18, PIN 18, TXCH 0, DIV 2, CAP_BYTES 1024 and one BIND answer
(95_test_vectors.md, its conventions and V4.1). -/
def staged (cfg : Word) (npix : Nat) (answer : Bool) : State :=
  { State.reset with
    conf :=
      { cfg := cfgOfWord cfg, npix := BitVec.ofNat 16 npix
        t0h := 16, t0l := 34, t1h := 32, t1l := 18, txcfg := { pin := 18, txch := 0, div := 2 } }
    env := { State.reset.env with capBytes := 1024, bindAnswers := [answer] } }

/-- A configured strip with the given transmit state, PLEN and colour bytes. -/
def strip (cfg : Word) (npix : Nat) (txs : Txs) (plen : Nat) (bytes : List Byte) : State :=
  { staged cfg npix true with
    stat := { configured := true, wdrop := false, txs := txs, err := .ok }
    plen := BitVec.ofNat 32 plen
    cbuf := Memory.cells 0 bytes }

/-- The state with OPA written. -/
def withOpa (s : State) (v : Word) : State := s.setOpnd { s.opnd with opa := v }

/-- The state with OPH, OPS and OPB written. -/
def withHsb (s : State) (h x v : Word) : State := s.setOpnd { s.opnd with oph := h, ops := x, opb := v }

/-- The next state of an outcome. -/
def after : Host.Outcome State Fault Refusal → Option State
  | .next t => some t
  | .fault _ => none
  | .refused _ => none

/-- A command word issued by a 32-bit write to CMD. -/
def word (w : Word) (s : State) : Host.Outcome State Fault Refusal := hostAccess (.write 0x030 4 w) s

/-- STATUS as read. -/
def status (s : State) : Nat := (s.busRead 0x034 4).toNat

/-- The first colour bytes. -/
def colours (s : State) (n : Nat) : List Nat := (List.range n).map fun a => (s.cbuf.read a).toNat

/-- The first pulse descriptors. -/
def pulses (s : State) (n : Nat) : List Word := (List.range n).map s.pbuf.read

/-- An outcome whose next state meets a decidable condition. -/
theorem next_of_any {o : Host.Outcome State Fault Refusal} {p : State → Bool} (h : (after o).any p = true) :
    ∃ t, o = .next t ∧ p t = true := by
  cases o with
  | next t => exact ⟨t, rfl, by simpa [after] using h⟩
  | fault _ => simp [after] at h
  | refused _ => simp [after] at h

/-! ## WellFormed: each check refuses an ill-formed term -/

theorem test_setRgb_index_refused : (Instr.setRgb 65536).wellFormed = false := by decide
theorem test_setRgbw_index_refused : (Instr.setRgbw 65536).wellFormed = false := by decide
theorem test_setHsb_index_refused : (Instr.setHsb 65536).wellFormed = false := by decide
theorem test_index_65535_accepted : (Instr.setHsb 65535).wellFormed = true := by decide

/-! ## Decoding: words written out from R90, R94 and R99 -/

theorem test_decode_configure : decode 0b00000001_00000000_0000000000000000 = .instr .configure := by decide
theorem test_decode_release : decode 0b00000010_00000000_0000000000000000 = .instr .release := by decide
theorem test_decode_setRgb : decode 0b00010000_00000000_0000000000000101 = .instr (.setRgb 5) := by decide
theorem test_decode_setRgbw : decode 0b00010001_00000000_1000000000000001 = .instr (.setRgbw 0x8001) := by decide
theorem test_decode_setHsb : decode 0b00010010_00000000_0000000000001001 = .instr (.setHsb 9) := by decide
theorem test_decode_clear : decode 0b00011000_00000000_0000000000000000 = .instr .clear := by decide
theorem test_decode_render : decode 0b00100000_00000000_0000000000000000 = .instr .render := by decide
theorem test_decode_convHsb2rgb : decode 0b00110000_00000000_0000000000000000 = .instr .convHsb2rgb := by decide
theorem test_decode_convSimple : decode 0b00110001_00000000_0000000000000000 = .instr .convRgb2rgbwSimple := by decide
theorem test_decode_convComplex : decode 0b00110010_00000000_0000000000000000 = .instr .convRgb2rgbwComplex := by decide
theorem test_decode_zero_word : decode 0x00000000 = .illegal .reservedOpcode := by decide
theorem test_decode_reserved_opcode : decode 0x21000000 = .illegal .reservedOpcode := by decide
theorem test_decode_ci_rsv : decode 0x10010005 = .illegal .rsvNotZero := by decide
theorem test_decode_cn_field : decode 0x20000001 = .illegal .fieldNotZero := by decide
/-- The bytes of 0x12000009 in the bus order (R62), and what is left after them. -/
theorem test_decodeBytes_little_endian :
    decodeBytes [0x09, 0x00, 0x00, 0x12, 0xAA] = (.instr (.setHsb 9), [0xAA]) := by decide
theorem test_decodeBytes_short : decodeBytes [0x09, 0x00, 0x00] = (.illegal .notOneWord, [0x09, 0x00, 0x00]) := by decide
/-- CONFIGURE as the first command after reset: with NPIX = 0 it fits, and the answer to BIND is open; either way PXE goes on. -/
theorem test_first_step_runs : ((after (step (State.reset.withFetchWord 32 0x01000000))).isSome) = true := by
  decide +kernel

/-! ## The commands, on the spec's vectors -/

/-- V4.1, the first row. -/
theorem test_configure_binds :
    (after (word 0x01000000 (staged 0x200 1 true))).map (fun t => (status t, colours t 3, t.plen, t.env.txRequests)) =
      some (0x002, [0, 0, 0], 0, [.bind { pin := 18, txch := 0, div := 2 }]) := by decide +kernel
/-- V4.1: RGBW, 257 pixels are 1028 bytes; no BIND is sent. -/
theorem test_configure_too_long :
    (after (word 0x01000000 (staged 0x001 257 true))).map (fun t => (status t, t.env.txRequests)) = some (0x700, []) := by
  decide +kernel
/-- V4.2. -/
theorem test_release_unbinds :
    (after (word 0x02000000 (strip 0x000 1 .done 25 []))).map (fun t => (status t, t.plen, t.env.txRequests)) =
      some (0x000, 0, [.unbind]) := by decide +kernel
/-- L1.1: order GRB, pixel (238, 7, 12). -/
theorem test_setRgb_grb :
    (after (word 0x10000000 (withOpa (strip 0x200 1 .idle 0 []) 0x00EE070C))).map (fun t => (status t, colours t 3)) =
      some (0x002, [7, 238, 12]) := by decide +kernel
/-- V4.3: an RGBW strip in order GRBW converts (100, 150, 200). -/
theorem test_setRgb_converts :
    (after (word 0x10000001 (withOpa (strip 0x601 2 .idle 0 []) 0x006496C8))).map (fun t => colours t 8) =
      some [0, 0, 0, 0, 50, 0, 100, 100] := by decide +kernel
/-- V4.3. -/
theorem test_setRgbw_grbw :
    (after (word 0x11000000 (withOpa (strip 0x601 2 .idle 0 []) 0x04010203))).map (fun t => colours t 8) =
      some [2, 1, 3, 4, 0, 0, 0, 0] := by decide +kernel
/-- V4.3: MISMATCH is checked before INDEX. -/
theorem test_setRgbw_mismatch :
    (after (word 0x11000005 (withOpa (strip 0x000 2 .idle 0 []) 0x04010203))).map status = some 0x502 := by decide +kernel
/-- V4.3: hue 30. -/
theorem test_setHsb_converts :
    (after (word 0x12000000 (withHsb (strip 0x601 2 .idle 0 []) 0x41F00000 0x3F800000 0x3F800000))).map
      (fun t => colours t 4) = some [127, 255, 0, 0] := by decide +kernel
/-- V4.3: a NaN hue stores black. -/
theorem test_setHsb_nan :
    (after (word 0x12000000 (withHsb (strip 0x000 1 .idle 0 [9, 9, 9]) 0x7FC00000 0 0))).map
      (fun t => (status t, colours t 3)) = some (0x002, [0, 0, 0]) := by decide +kernel
/-- V4.4: PLEN keeps the last RENDER. -/
theorem test_clear_keeps_plen :
    (after (word 0x18000000 (strip 0x000 2 .done 49 [0, 0, 0, 1, 2, 3]))).map (fun t => (colours t 6, t.plen)) =
      some ([0, 0, 0, 0, 0, 0], 49) := by decide +kernel
/-- V5.1. -/
theorem test_render_mixed_word :
    (after (word 0x20000000 (strip 0x200 1 .idle 0 [7, 238, 12]))).map
      (fun t => (status t, t.plen, t.env.txRequests, (pulses t 25).map fun d => decide (d = 0x00128020))) =
      some (0x013, 25, [.play 24],
        [false, false, false, false, false, true, true, true] ++ [true, true, true, false, true, true, true, false] ++
        [false, false, false, false, true, true, false, false] ++ [false]) := by decide +kernel
/-- L1.15: no pixels, only the terminator. -/
theorem test_render_no_pixels :
    (after (word 0x20000000 (strip 0x000 0 .idle 0 []))).map (fun t => (status t, t.plen, pulses t 1, t.env.txRequests)) =
      some (0x013, 1, [0], [.play 0]) := by decide +kernel
/-- V1.1: (45, 0.75, 0.8), unconfigured. -/
theorem test_convHsb_exact :
    (after (word 0x30000000 (withHsb State.reset 0x42340000 0x3F400000 0x3F4CCCCD))).map (fun t => (status t, t.res)) =
      some (0x000, 0x00CCA533) := by decide +kernel
/-- V1.1: hue -30. -/
theorem test_convHsb_negative_hue :
    (after (word 0x30000000 (withHsb State.reset 0xC1F00000 0x3F800000 0x3F800000))).map (fun t => t.res) =
      some 0x00FF007F := by decide +kernel
/-- L1.17. -/
theorem test_convSimple :
    (after (word 0x31000000 (withOpa State.reset 0x00C8960A))).map (fun t => t.res) = some 0x0ABE8C00 := by decide +kernel
/-- V1.3: (238, 7, 12); OPA.W is ignored. -/
theorem test_convComplex :
    (after (word 0x32000000 (withOpa State.reset 0xFFEE070C))).map (fun t => t.res) = some 0x07E70005 := by decide +kernel
/-- V1.3: a grey. -/
theorem test_convComplex_grey :
    (after (word 0x32000000 (withOpa State.reset 0x00070707))).map (fun t => t.res) = some 0x07000000 := by decide +kernel

/-! ## Errors, registers, windows, events, reset -/

/-- 2.6: an illegal word, and one that decodes and fails its index check. -/
theorem test_errors :
    (after (word 0x00000000 (strip 0 2 .idle 0 []))).map status = some 0x102 ∧
    (after (word 0x1000FFFF (strip 0 2 .idle 0 []))).map status = some 0x602 ∧
    (after (word 0x01000000 (strip 0 2 .idle 0 []))).map status = some 0x402 ∧
    (after (word 0x00000000 (strip 0 2 .active 49 []))).map status = some 0x213 := by decide +kernel
/-- 2.7: the byte at LIVE is dropped; the other three are stored. -/
theorem test_colour_write :
    (after (hostAccess (.write 0x010000 4 0xAABBCCDD) (strip 0 1 .idle 0 []))).map
      (fun t => (status t, t.busRead 0x010000 4)) = some (0x006, 0x00BBCCDD) := by decide +kernel
/-- 2.7: reads of the pulse window after a RENDER. -/
theorem test_pulse_reads :
    (after (word 0x20000000 (strip 0x200 1 .idle 0 [7, 238, 12]))).map
      (fun t => (t.busRead 0x200000 4, t.busRead 0x200001 1, t.busRead 0x200002 2, t.busRead 0x200060 4)) =
      some (0x00228010, 0x80, 0x0022, 0) := by decide +kernel
/-- V3.3 and 2.7: reserved bits are not stored. -/
theorem test_reserved_bits :
    (after (hostAccess (.write 0x008 4 0x8010) State.reset)).map (fun t => t.busRead 0x008 4) = some 16 ∧
    (after (hostAccess (.write 0x018 4 0xFFFFFFFF) State.reset)).map (fun t => t.busRead 0x018 4) = some 0x00FF0FFF ∧
    (after (hostAccess (.write 0x000 4 0xFFFFFFFF) State.reset)).map (fun t => t.busRead 0x000 4) = some 0x00001F03 := by
  decide +kernel
/-- 2.7: an 8-bit write to CMD is ill-formed. -/
theorem test_byte_write_to_cmd :
    (after (hostAccess (.write 0x030 1 0x20) (strip 0 1 .idle 0 []))).map status = some 0x006 := by decide +kernel
/-- 2.6: a FAIL while a refused command's ERR_BUSY stands. -/
theorem test_fail_keeps_err :
    status (txEvent .fail ((strip 0 2 .active 49 []).setErr .busy)) = 0x232 := by decide +kernel
/-- 2.8: a reset in the middle of a transmission sends nothing. -/
theorem test_reset_during_play :
    status (strip 0 2 .active 49 [1]).afterReset = 0 ∧ (strip 0 2 .active 49 [1]).afterReset.env.txRequests = [] := by
  decide +kernel
/-- V3.1 and V3.2. -/
theorem test_ticks_and_descriptors :
    ticksFromNs 299 8 2 = 11 ∧ ticksFromNs 450 8 2 = 18 ∧ descriptor 32767 32767 = 0x7FFFFFFF ∧
    descriptor 12 36 = 0x0024800C := by decide
/-- V2.2, the row WBRG: ORDER 22. -/
theorem test_order_wbrg : orderRow true 22 = some [2, 3, 1, 0] := by decide
/-- V1.1: the literals 0.8, −0, −0.5 and 359.99997, and the integer 30. -/
theorem test_bits32 :
    Decimal.bits32 ⟨false, 8, 1⟩ = 0x3F4CCCCD ∧ Decimal.bits32 ⟨true, 0, 0⟩ = 0x80000000 ∧
    Decimal.bits32 ⟨true, 5, 1⟩ = 0xBF000000 ∧ Decimal.bits32 ⟨false, 35999997, 5⟩ = 0x43B3FFFF ∧
    bits32 30 = 0x41F00000 := by decide +kernel
/-- P1: `SETOPA 238, 7, 12`, with w at its default 0, writes 0x00EE070C to OPA. -/
theorem test_setOpa_default :
    ((Line.setOpa (.lit 238) (.lit 7) (.lit 12) none).expand.map (Basic.access [])) =
      [some (.write 0x020 4 0x00EE070C)] := by decide +kernel
/-- 2.7: `WRB CMD, 0x20` is ill-formed: dropped, WDROP = 1, no command. -/
theorem test_host_byte_write_to_cmd :
    (hostLine { program := [.wr 1 .cmd (.lit 0x20)], pos := 0, vars := [] } (strip 0 1 .idle 0 [])).map
      (fun p => (p.1.pos, status p.2, p.2.env.txRequests)) = some (1, 0x006, []) := by decide +kernel
/-- R98: a CI index of 65536 has no value, so its line makes no access. -/
theorem test_ci_index_range :
    ((Line.ci .setRgb (.lit 65536)).expand.map (Basic.access [])) = [none] := by decide +kernel
/-- R98 and P2: `SET_RGB i` with i = 1 writes 0x10000001 to CMD. -/
theorem test_host_line :
    (hostLine { program := (Line.ci .setRgb (.var 0)).expand, pos := 0, vars := [(0, 1)] }
      (withOpa (strip 0x601 2 .idle 0 []) 0x006496C8)).map (fun p => (p.1.pos, colours p.2 8)) =
      some (1, [0, 0, 0, 0, 50, 0, 100, 100]) := by decide +kernel

/-! ## Witnesses: for each statement with hypotheses, inputs that meet them, at boundary values -/

/-- What a step does with one given input. -/
def stepOn (i : Input) (s : State) : Host.Outcome State Fault Refusal := step (s.setInputs [i])

/-- A CMD write as an input. -/
def cmdInput (w : Word) : Input := .host (.write Reg.cmd.offset 4 w)

/-- An idle RGB strip of two pixels in order GRB. -/
def rgb : State := strip 0x200 2 .idle 0 []

/-- An idle RGBW strip of two pixels in the last legal order, WBGR. -/
def rgbw : State := strip 0x1701 2 .idle 0 []

/-- The RGB strip of V5.1 while its sequence is played. -/
def played : State :=
  let s := strip 0x200 1 .active 25 [7, 238, 12]
  s.setPbuf (Memory.cells 0 s.sequence)

theorem witness_EncodeThenDecodeIsIdentity :
    (Instr.setRgb 65535).wellFormed = true ∧ (Instr.setHsb 0).wellFormed = true ∧ Instr.render.wellFormed = true := by
  decide
theorem witness_DecodedWordIsItsEncoding :
    decode 0x1200FFFF = .instr (.setHsb 65535) ∧ decode 0x32000000 = .instr .convRgb2rgbwComplex := by decide
theorem witness_IllegalWordsAreThoseNamed :
    decode 0x03000000 = .illegal .reservedOpcode ∧ decode 0x11FF0000 = .illegal .rsvNotZero ∧
    decode 0x01800000 = .illegal .fieldNotZero ∧ rgb.busy = false := by decide +kernel
theorem witness_StepRunsTheDecodedCommand :
    (rgb.setInputs [cmdInput 0x10000001, .reset]).env.inputs =
      .host (.write Reg.cmd.offset 4 0x10000001) :: [.reset] ∧ decode 0x10000001 = .instr (.setRgb 1) := by decide +kernel
theorem witness_PlacedWordRunsNext :
    decodeTableWord 32 0x1000FFFF = some (.setRgb 65535) ∧ decodeTableWord 32 0x02000000 = some .release := by decide
theorem witness_StepTakesOneInput :
    State.reset.env.inputs = [] ∧
    (rgb.setInputs [.otherHost (.read 0 4)]).env.inputs = .otherHost (.read 0 4) :: [] ∧
    (rgb.setInputs [.host (.read 0x034 4)]).env.inputs = .host (.read 0x034 4) :: [] ∧
    (rgb.setInputs [.tx .fail]).env.inputs = .tx .fail :: [] ∧
    (rgb.setInputs [.reset, .tx .done]).env.inputs = .reset :: [.tx .done] := by decide +kernel
/-- An index at the end of the strip, and a refused BIND. -/
theorem witness_FailedCommandChangesOnlyErr :
    (∃ t, exec (.setRgb 2) rgb = .next t ∧ decide (t.stat.err ≠ .ok) = true) ∧
    (∃ t, exec .configure (staged 0x001 2 false) = .next t ∧ decide (t.stat.err ≠ .ok) = true) :=
  ⟨next_of_any (by decide +kernel), next_of_any (by decide +kernel)⟩
theorem witness_BusyRefusesEveryWord : played.busy = true := by decide +kernel
/-- Each clause: unconfigured; configured; an RGB strip; the first index beyond the strip; orders 6 and 24; 1026 bytes. -/
theorem witness_EachCheckRaisesItsError :
    (State.reset.busy = false ∧ State.reset.stat.configured = false) ∧
    (rgb.busy = false ∧ rgb.stat.configured = true ∧ rgb.conf.cfg.ch4 = false ∧ rgb.pixels ≤ 2) ∧
    (rgbw.busy = false ∧ rgbw.stat.configured = true ∧ rgbw.conf.cfg.ch4 = true ∧ rgbw.pixels ≤ 2) ∧
    ((staged 0x600 1 true).conf.cfg.ch4 = false ∧ 6 ≤ (staged 0x600 1 true).conf.cfg.order.toNat) ∧
    ((staged 0x1801 1 true).conf.cfg.ch4 = true ∧ 24 ≤ (staged 0x1801 1 true).conf.cfg.order.toNat) ∧
    ((staged 0 342 true).env.capBytes < (staged 0 342 true).pixels * (staged 0 342 true).ch) := by decide +kernel
/-- The last legal RGBW order and a strip that fills the buffer exactly. -/
theorem witness_ConfigureBindsAndZeroes :
    (staged 0x1701 256 true).busy = false ∧ (staged 0x1701 256 true).stat.configured = false ∧
    (staged 0x1701 256 true).conf.cfg.order.toNat < (if (staged 0x1701 256 true).ch = 3 then 6 else 24) ∧
    (staged 0x1701 256 true).pixels * (staged 0x1701 256 true).ch ≤ (staged 0x1701 256 true).env.capBytes ∧
    (staged 0x1701 256 true).bindAnswer = true := by decide +kernel
/-- The last legal RGB order and no pixels. -/
theorem witness_RefusedBindLeavesUnconfigured :
    (staged 0x500 0 false).busy = false ∧ (staged 0x500 0 false).stat.configured = false ∧
    (staged 0x500 0 false).conf.cfg.order.toNat < (if (staged 0x500 0 false).ch = 3 then 6 else 24) ∧
    (staged 0x500 0 false).pixels * (staged 0x500 0 false).ch ≤ (staged 0x500 0 false).env.capBytes ∧
    (staged 0x500 0 false).bindAnswer = false := by decide +kernel
theorem witness_ReleaseUnbinds :
    (strip 0 1 .failed 25 []).busy = false ∧ (strip 0 1 .failed 25 []).stat.configured = true := by decide +kernel
/-- The last pixel, on an RGB strip, and on an RGBW strip with either converter. -/
theorem witness_SetRgbStoresThePixel :
    (rgb.busy = false ∧ rgb.stat.configured = true ∧ rgb.conf.cfg.order.toNat < rgb.orderCount ∧ 1 < rgb.pixels ∧
      rgb.conf.cfg.ch4 = false) ∧
    (rgbw.busy = false ∧ rgbw.stat.configured = true ∧ rgbw.conf.cfg.order.toNat < rgbw.orderCount ∧ 1 < rgbw.pixels ∧
      rgbw.conf.cfg.ch4 = true ∧ rgbw.conf.cfg.conv = false) ∧
    ((strip 0x1703 2 .idle 0 []).conf.cfg.ch4 = true ∧ (strip 0x1703 2 .idle 0 []).conf.cfg.conv = true) := by
  decide +kernel
theorem witness_SetRgbwStoresThePixel :
    rgbw.busy = false ∧ rgbw.stat.configured = true ∧ rgbw.conf.cfg.ch4 = true ∧ rgbw.conf.cfg.order.toNat < 24 ∧
    1 < rgbw.pixels := by decide +kernel
/-- Finite operands, and a NaN, on both kinds of strip. -/
theorem witness_SetHsbStoresThePixel :
    (rgb.busy = false ∧ rgb.stat.configured = true ∧ rgb.conf.cfg.order.toNat < rgb.orderCount ∧ 0 < rgb.pixels ∧
      rgb.conf.cfg.ch4 = false ∧ f32val (withHsb rgb 0x41F00000 0x3F800000 0x3F000000).opnd.oph = some 30 ∧
      f32val (withHsb rgb 0x41F00000 0x3F800000 0x3F000000).opnd.ops = some 1 ∧
      f32val (withHsb rgb 0x41F00000 0x3F800000 0x3F000000).opnd.opb = some (1 / 2)) ∧
    (rgbw.busy = false ∧ rgbw.stat.configured = true ∧ rgbw.conf.cfg.order.toNat < rgbw.orderCount ∧ 1 < rgbw.pixels ∧
      rgbw.conf.cfg.ch4 = true ∧ f32val (withHsb rgbw 0x7FC00000 0 0).opnd.oph = none) := by decide +kernel
theorem witness_ClearZeroesTheLiveBuffer :
    rgb.busy = false ∧ rgb.stat.configured = true ∧ 5 < rgb.live ∧ rgb.live ≤ 6 := by decide +kernel
theorem witness_SetAndClearAreIdempotent :
    Memory.wf rgbw.cbuf = true ∧ (∃ t, exec (.setRgb 1) rgbw = .next t ∧ decide (t.stat.err = .ok) = true) ∧
    (∃ t, exec (.setRgbw 1) rgbw = .next t ∧ decide (t.stat.err = .ok) = true) ∧
    (∃ t, exec (.setHsb 1) rgbw = .next t ∧ decide (t.stat.err = .ok) = true) ∧
    (∃ t, exec .clear rgbw = .next t ∧ decide (t.stat.err = .ok) = true) :=
  ⟨by decide +kernel, next_of_any (by decide +kernel), next_of_any (by decide +kernel), next_of_any (by decide +kernel),
    next_of_any (by decide +kernel)⟩
/-- A pixel that is stored, and an index that is refused. -/
theorem witness_SetCommandsAreLocal :
    (∃ t, exec (.setRgb 1) rgb = .next t ∧ decide (t.stat.err = .ok) = true) ∧
    (∃ t, exec (.setHsb 2) rgb = .next t ∧ decide (t.stat.err ≠ .ok) = true) :=
  ⟨next_of_any (by decide +kernel), next_of_any (by decide +kernel)⟩
/-- The last legal codes, the last offsets, and a channel that an RGB strip lacks. -/
theorem witness_OrdersAreDistinctPermutations :
    (5 : BitVec 5).toNat < (if false then 24 else 6) ∧ (23 : BitVec 5).toNat < (if true then 24 else 6) ∧
    off false 5 .red = some 2 ∧ off true 23 .red = some 3 ∧ off false 5 .white = none := by decide
/-- Order 0 with R, G, B, and the last RGBW order. -/
theorem witness_SerializedPixelReadsBack :
    (∃ t, serialize (strip 0 2 .idle 0 []) (Rgb.channels ⟨1, 2, 3⟩) 1 = .next t ∧ true = true) ∧
    ((strip 0 2 .idle 0 []).conf.cfg.ch4 = false ∧ (strip 0 2 .idle 0 []).conf.cfg.order = 0) ∧
    (∃ t, serialize rgbw [1, 2, 3, 4] 1 = .next t ∧ true = true) ∧
    off rgbw.conf.cfg.ch4 rgbw.conf.cfg.order .white = some 0 ∧ [(1 : Byte), 2, 3, 4][Channel.white.column]? = some 4 :=
  ⟨next_of_any (by decide +kernel), by decide +kernel, next_of_any (by decide +kernel), by decide +kernel, by decide⟩
/-- The ends of the ranges: no saturation; full saturation and brightness just below hue 360. -/
theorem witness_InRangeHsbIsNotClamped :
    ((0 : ℚ) ≤ 0 ∧ (0 : ℚ) ≤ 1 ∧ (0 : ℚ) ≤ 359 ∧ (359 : ℚ) < 360) ∧
    ((0 : ℚ) < 1 ∧ (59 / 60 : ℚ) = 359 / 60 - (Rat.floor (359 / 60) : ℚ) ∧ (1 : ℚ) ≤ 1) := by decide +kernel
/-- Each sector at its lower end, and a negative hue; each saturation clause just outside and at the ends of its range. -/
theorem witness_HueSectorSelectsComponents :
    (0 : ℚ) < 1 ∧ (∀ h ∈ [(0 : ℚ), 60, 120, 180, 240, 300, -30], h < 360) ∧
    (0 : ℚ) = 300 / 60 - (Rat.floor (300 / 60) : ℚ) ∧ (1 / 2 : ℚ) = -30 / 60 - (Rat.floor (-30 / 60) : ℚ) ∧
    trunc ((-1 / 255 : ℚ) * 255) < 0 ∧ 255 < trunc ((256 / 255 : ℚ) * 255) ∧ trunc ((1 : ℚ) * 255) = 255 ∧
    trunc ((-1 / 510 : ℚ) * 255) = 0 ∧ (0 : ℚ) ≤ 0 ∧ roundHA ((-1 / 510 : ℚ) * 255) < 0 ∧
    255 < roundHA ((511 / 510 : ℚ) * 255) ∧ roundHA ((1 : ℚ) * 255) = 255 ∧ roundHA ((0 : ℚ) * 255) = 0 := by
  decide +kernel
theorem witness_LargeHueActsAsZero : (360 : ℚ) ≤ 360 ∧ (0 : ℚ) ≤ 0 ∧ (-1 / 2 : ℚ) ≤ 0 := by decide +kernel
/-- Finite operands, the smallest subnormal among them; infinities and NaNs. -/
theorem witness_ConvHsbWritesResult :
    State.reset.busy = false ∧ f32val 0x42C80000 = some 100 ∧ f32val 0x00000001 = some (1 / 2 ^ 149) ∧
    f32val 0x3F800000 = some 1 ∧ f32val 0x7F800000 = none ∧ f32val 0xFF800000 = none ∧ f32val 0x7FC00000 = none := by
  decide +kernel
theorem witness_ConvRgbwWritesResult :
    rgb.busy = false ∧
    (⟨0xC8, 0x96, 0x0A⟩ : Rgb) =
      ⟨(withOpa rgb 0xFFC8960A).opnd.opa.extractLsb' 16 8, (withOpa rgb 0xFFC8960A).opnd.opa.extractLsb' 8 8,
        (withOpa rgb 0xFFC8960A).opnd.opa.extractLsb' 0 8⟩ := by decide +kernel
/-- A strip with pixels, and one without. -/
theorem witness_RenderBuildsThePulseSequence :
    (rgbw.busy = false ∧ rgbw.stat.configured = true ∧ 1 < rgbw.pixels ∧ 31 < rgbw.bits) ∧
    ((strip 0 0 .idle 0 []).busy = false ∧ (strip 0 0 .idle 0 []).stat.configured = true) := by decide +kernel
theorem witness_WireOrderIsMsbFirst :
    rgb.stat.configured = true ∧ (∃ t, exec .render rgb = .next t ∧ decide (t.stat.err = .ok) = true) ∧
    1 < rgb.pixels ∧ 2 < rgb.ch :=
  ⟨by decide +kernel, next_of_any (by decide +kernel), by decide +kernel, by decide +kernel⟩
/-- The later state: the strip after its FAIL. -/
theorem witness_RerenderIsIdentical :
    ∃ t r u, exec .render rgb = .next t ∧ t.stat.err = .ok ∧ r.conf = t.conf ∧
      (∀ a, a < r.live → r.cbuf.read a = t.cbuf.read a) ∧ exec .render r = .next u ∧ u.stat.err = .ok := by
  obtain ⟨t, ht, h⟩ := next_of_any (o := exec .render rgb)
    (p := fun t => decide (t.stat.err = .ok) && (after (exec .render (t.setTxs .failed))).any
      fun (u : State) => decide (u.stat.err = .ok)) (by decide +kernel)
  obtain ⟨u, hu, h'⟩ := next_of_any (Bool.and_eq_true .. |>.mp h).2
  exact ⟨t, t.setTxs .failed, u, ht, of_decide_eq_true (Bool.and_eq_true .. |>.mp h).1, rfl, fun _ _ => rfl, hu,
    of_decide_eq_true h'⟩
theorem witness_ClearThenRenderSendsZeros :
    ∃ t u, exec .clear (strip 0 1 .done 25 [1, 2, 3]) = .next t ∧ t.stat.err = .ok ∧ exec .render t = .next u ∧
      u.stat.err = .ok := by
  obtain ⟨t, ht, h⟩ := next_of_any (o := exec .clear (strip 0 1 .done 25 [1, 2, 3]))
    (p := fun t => decide (t.stat.err = .ok) && (after (exec .render t)).any fun (u : State) => decide (u.stat.err = .ok))
    (by decide +kernel)
  obtain ⟨u, hu, h'⟩ := next_of_any (Bool.and_eq_true .. |>.mp h).2
  exact ⟨t, u, ht, of_decide_eq_true (Bool.and_eq_true .. |>.mp h).1, hu, of_decide_eq_true h'⟩
theorem witness_FirstRenderSendsZeros :
    ∃ t u c v, exec .configure (staged 0x801 2 true) = .next t ∧ t.stat.err = .ok ∧ exec .render t = .next u ∧
      exec .clear t = .next c ∧ exec .render c = .next v := by
  obtain ⟨t, ht, h⟩ := next_of_any (o := exec .configure (staged 0x801 2 true))
    (p := fun t => (decide (t.stat.err = .ok) && (after (exec .render t)).any fun _ => true) &&
      (after (exec .clear t)).any fun c => (after (exec .render c)).any fun _ => true)
    (by decide +kernel)
  obtain ⟨h1, h2⟩ := Bool.and_eq_true .. |>.mp h
  obtain ⟨u, hu, _⟩ := next_of_any (Bool.and_eq_true .. |>.mp h1).2
  obtain ⟨c, hc, h3⟩ := next_of_any h2
  obtain ⟨v, hv, _⟩ := next_of_any h3
  exact ⟨t, u, c, v, ht, of_decide_eq_true (Bool.and_eq_true .. |>.mp h1).1, hu, hc, hv⟩
/-- Ticks that are all at least 1. -/
theorem witness_WaveIsHighThenLowPerBit :
    (∃ t, exec .render (strip 0x200 1 .done 25 [7, 238, 12]) = .next t ∧ decide (t.stat.err = .ok) = true) ∧
    (strip 0x200 1 .done 25 [7, 238, 12]).conf.t0h ≠ 0 ∧ (strip 0x200 1 .done 25 [7, 238, 12]).conf.t0l ≠ 0 ∧
    (strip 0x200 1 .done 25 [7, 238, 12]).conf.t1h ≠ 0 ∧ (strip 0x200 1 .done 25 [7, 238, 12]).conf.t1l ≠ 0 :=
  ⟨next_of_any (by decide +kernel), by decide +kernel⟩
theorem witness_TransmitterEventsEndThePlay : played.stat.txs = .active ∧ rgb.stat.txs ≠ .active := by decide +kernel
theorem witness_WrittenRegisterReadsBackMasked :
    (Reg.cfg.isConf = true ∧ State.reset.stat.configured = false) ∧ Reg.opb.isOperand = true := by decide +kernel
theorem witness_ConfigurationIsReadOnlyWhileConfigured :
    Reg.txcfg.isConf = true ∧ rgb.stat.configured = true := by decide +kernel
/-- A boundary offset of each clause. -/
theorem witness_DroppedWritesSetOnlyWdrop :
    wellFormedAccess 0x030 1 = false ∧ wellFormedAccess 0x01FFFF 2 = false ∧ wellFormedAccess 0x020000 4 = false ∧
    (0x01C : Offset).toNat = 0x01C ∧ (0x040 ≤ (0x00FFFC : Offset).toNat ∧ (0x00FFFC : Offset).toNat < 0x10000) ∧
    (0x020000 ≤ (0x1FFFFF : Offset).toNat ∧ (0x1FFFFF : Offset).toNat < 0x200000) ∧
    0x200000 ≤ (0x3FFFFC : Offset).toNat ∧ (0x038 : Offset).toNat = 0x038 ∧ (0x03C : Offset).toNat = 0x03C := by decide
theorem witness_StatusWriteClearsOnlyWdrop :
    (4 : Word).getLsbD 2 = true ∧ (0xFFFFFFFB : Word).getLsbD 2 = false := by decide
theorem witness_IllFormedAndReservedReadZero :
    wellFormedAccess 0x010001 2 = false ∧ (0x040 ≤ (0x040 : Offset).toNat ∧ (0x040 : Offset).toNat < 0x10000) ∧
    (0x030 : Offset).toNat = 0x030 := by decide
/-- The first and the last bytes of the window, as bytes, halfwords and words. -/
theorem witness_ColourWindowReadsLiveBytes :
    0x010000 ≤ (0x010000 : Offset).toNat ∧ (0x01FFFF : Offset).toNat < 0x020000 ∧
    wellFormedAccess 0x010000 4 = true ∧ wellFormedAccess 0x01FFFE 2 = true ∧ wellFormedAccess 0x01FFFF 1 = true := by
  decide
theorem witness_PulseWindowReadsValidDescriptors :
    0x200000 ≤ (0x200000 : Offset).toNat ∧ wellFormedAccess 0x200000 4 = true ∧ wellFormedAccess 0x3FFFFF 1 = true ∧
    wellFormedAccess 0x3FFFFE 2 = true ∧ 24 < played.plen.toNat ∧ ¬ 25 < played.plen.toNat := by decide +kernel
/-- A byte below LIVE while not BUSY, a byte at LIVE, and a transmission. -/
theorem witness_ColourWindowWritesLiveBytes :
    wellFormedAccess 0x010004 4 = true ∧ 5 < rgb.live ∧ rgb.busy = false ∧ rgb.live ≤ 6 ∧ played.busy = true := by
  decide +kernel
/-- Each event that changes TXS. -/
theorem witness_TxsChangesOnlyAtItsEvents :
    (∃ t, stepOn .reset played = .next t ∧ decide (t.stat.txs ≠ played.stat.txs) = true) ∧
    (∃ t, stepOn (cmdInput 0x02000000) (strip 0 1 .done 25 []) = .next t ∧ decide (t.stat.txs ≠ .done) = true) ∧
    (∃ t, stepOn (cmdInput 0x20000000) rgb = .next t ∧ decide (t.stat.txs ≠ rgb.stat.txs) = true) ∧
    (∃ t, stepOn (.tx .done) played = .next t ∧ decide (t.stat.txs ≠ played.stat.txs) = true) ∧
    (∃ t, stepOn (.tx .fail) played = .next t ∧ decide (t.stat.txs ≠ played.stat.txs) = true) :=
  ⟨next_of_any (by decide +kernel), next_of_any (by decide +kernel), next_of_any (by decide +kernel),
    next_of_any (by decide +kernel), next_of_any (by decide +kernel)⟩
theorem witness_ConfiguredChangesOnlyAtItsEvents :
    (∃ t, stepOn (cmdInput 0x01000000) (staged 0 1 true) = .next t ∧ decide (t.stat.configured = true) = true) ∧
    (∃ t, stepOn (cmdInput 0x02000000) rgb = .next t ∧ decide (t.stat.configured = false) = true) ∧
    (∃ t, stepOn .reset rgb = .next t ∧ decide (t.stat.configured = false) = true) ∧
    (staged 0 1 true).stat.configured = false ∧ rgb.stat.configured = true :=
  ⟨next_of_any (by decide +kernel), next_of_any (by decide +kernel), next_of_any (by decide +kernel), by decide +kernel,
    by decide +kernel⟩
/-- The next step is not the reset input. -/
theorem not_nextReset {i : Input} (h : i ≠ .reset) (s : State) : ¬ NextReset (s.setInputs [i]) := by
  rintro ⟨rest, hr⟩
  exact h (by simpa using congrArg List.head? hr)
theorem witness_ErrAndWdropWriters :
    (∃ t, stepOn (cmdInput 0) rgb = .next t ∧ decide (t.stat.err ≠ rgb.stat.err) = true) ∧
    (∃ t, stepOn (.host (.write Reg.status.offset 4 4)) rgb.dropWrite = .next t ∧
      decide (rgb.dropWrite.stat.wdrop = true ∧ t.stat.wdrop = false) = true) ∧
    ¬ NextReset (rgb.setInputs [cmdInput 0]) ∧
    ¬ NextReset (rgb.dropWrite.setInputs [.host (.write Reg.status.offset 4 4)]) :=
  ⟨next_of_any (by decide +kernel), next_of_any (by decide +kernel), not_nextReset (by decide) _, not_nextReset (by decide) _⟩
theorem witness_ResultAndPulseWriters :
    (∃ t, stepOn (cmdInput 0x31000000) (withOpa rgb 7) = .next t ∧ decide (t.res ≠ (withOpa rgb 7).res) = true) ∧
    (∃ t, stepOn (cmdInput 0x20000000) rgb = .next t ∧ decide (t.plen ≠ rgb.plen ∧ t.pbuf ≠ rgb.pbuf) = true) ∧
    ¬ NextReset ((withOpa rgb 7).setInputs [cmdInput 0x31000000]) ∧ ¬ NextReset (rgb.setInputs [cmdInput 0x20000000]) :=
  ⟨next_of_any (by decide +kernel), next_of_any (by decide +kernel), not_nextReset (by decide) _, not_nextReset (by decide) _⟩
theorem witness_ConfigurationIsFixedWhileConfigured :
    (∃ t, stepOn (.host (.write Reg.cfg.offset 4 0)) rgb = .next t ∧ true = true) ∧ rgb.stat.configured = true ∧
    ¬ NextReset (rgb.setInputs [.host (.write Reg.cfg.offset 4 0)]) :=
  ⟨next_of_any (by decide +kernel), by decide +kernel, not_nextReset (by decide) _⟩
theorem witness_TransmissionFreezesTheBuffers :
    (∃ t, stepOn (.host (.write 0x010000 1 0xFF)) played = .next t ∧ true = true) ∧ played.stat.txs = .active ∧
    played.stat.configured = true ∧ ¬ NextReset (played.setInputs [.host (.write 0x010000 1 0xFF)]) :=
  ⟨next_of_any (by decide +kernel), by decide +kernel, by decide +kernel, not_nextReset (by decide) _⟩
theorem witness_ResetClearsEveryRegister :
    (played.setInputs [.reset]).env.inputs = .reset :: [] ∧ (∃ t, stepOn .reset played = .next t ∧ true = true) :=
  ⟨by decide +kernel, next_of_any (by decide +kernel)⟩
/-- A state that meets the invariant in the middle of a transmission. -/
theorem played_inv (is : List Input) : Inv (played.setInputs is) where
  cbuf_wf := by simpa using (by decide +kernel : Memory.wf played.cbuf = true)
  pbuf_wf := by simpa using (by decide +kernel : Memory.wf played.pbuf = true)
  capacity := (by decide +kernel : 1 ≤ played.env.capBytes ∧ played.env.capBytes ≤ 65535)
  cbuf_in := (by decide +kernel : ∀ c ∈ played.cbuf, c.1 < played.env.capBytes)
  pbuf_in := (by decide +kernel : ∀ c ∈ played.pbuf, c.1 < played.pcap)
  config := fun _ => (by decide +kernel : played.conf.cfg.order.toNat < played.orderCount ∧
    played.pixels * played.ch ≤ played.env.capBytes)
  unconfigured_idle := fun h => absurd h (by decide +kernel : ¬ played.stat.configured = false)
  idle_plen := fun h => absurd h (by decide +kernel : ¬ played.stat.txs = .idle)
  rendered_plen := fun _ => (by decide +kernel : played.plen.toNat = played.pixels * played.bits + 1)
  rendered_bits := fun _ k hk =>
    (by decide +kernel : ∀ k, k < 24 → played.pbuf.read k = bitDescriptor played.conf false ∨
      played.pbuf.read k = bitDescriptor played.conf true) k
      (Nat.lt_of_succ_lt_succ (Nat.lt_of_lt_of_le hk (by decide +kernel : played.plen.toNat ≤ 25)))
  rendered_term := fun _ => (by decide +kernel : played.pbuf.read (played.pixels * played.bits) = term)
  in_flight := fun _ m hm =>
    (by decide +kernel : ∀ m, m < 24 → played.pbuf.read m = bitDescriptor played.conf (played.streamBit m)) m
      (Nat.lt_of_lt_of_le hm (by decide +kernel : played.pixels * played.bits ≤ 24))
theorem witness_StepKeepsTheInvariant :
    Inv (played.setInputs [.tx .done]) ∧ (∃ t, stepOn (.tx .done) played = .next t ∧ true = true) ∧
    Inv (played.setInputs [.reset]) ∧ (∃ t, stepOn .reset played = .next t ∧ true = true) :=
  ⟨played_inv _, next_of_any (by decide +kernel), played_inv _, next_of_any (by decide +kernel)⟩
theorem witness_InvariantStatesNeverFault : Inv (played.setInputs [cmdInput 0x10000000]) := played_inv _
/-- Two different states that no rule tells apart. -/
theorem witness_UnspecifiedContentsAreUnobservable :
    SameObservable rgb ((rgb.setCbuf [(6, 9)]).setPbuf [(0, 5)]) ∧ rgb ≠ (rgb.setCbuf [(6, 9)]).setPbuf [(0, 5)] :=
  ⟨⟨rfl, rfl, rfl, rfl, rfl, rfl,
      fun a ha => (by decide +kernel : ∀ a, a < 6 → rgb.cbuf.read a = Memory.read [(6, (9 : Byte))] a) a
        (Nat.lt_of_lt_of_le ha (by decide +kernel : rgb.live ≤ 6)),
      fun k hk => absurd hk (by simp [rgb, strip])⟩, by decide +kernel⟩
theorem witness_TicksFromNsIsAFloor : 0 < 1 ∧ 0 < 2 := by decide
/-- An index from a variable, and the largest one from a sum. -/
theorem witness_CiLineIssuesItsCommand :
    Expr.eval [(0, 0)] (.var 0) = some ((0 : Nat) : Int) ∧
    Expr.eval [(3, 65534)] (.add (.var 3) (.lit 1)) = some ((65535 : Nat) : Int) ∧ 65535 < 65536 := by decide +kernel

end Sys2Proof.Tests
end

section
/-! What the state's registers, flags and buffers keep under every step (10_state.md). First one inversion lemma for a command
(`exec_result`) and one for a step (`step_result`); the writers of each register, the invariant and the rest follow from them. -/

namespace Sys2Proof.Machine

/-! ## What a command can do -/

/-- No check fails exactly when each of them passes. -/
theorem firstFailure_eq_none {cs : List (Bool × Err)} : firstFailure cs = none ↔ ∀ c ∈ cs, c.1 = false := by
  induction cs with
  | nil => simp
  | cons c cs ih =>
    obtain ⟨b, e⟩ := c
    cases b <;> simp [ih]

/-- A new content of the colour buffer, as a command or a window write may leave it: canonical if the old one was, new cells
only below LIVE, and nothing new while BUSY (R64, R79, R208). -/
structure CbufUpdate (s : State) (m : Memory 8) : Prop where
  wf : Memory.wf s.cbuf = true → Memory.wf m = true
  below : ∀ c ∈ m, c ∈ s.cbuf ∨ c.1 < s.live
  busy : s.busy = true → m = s.cbuf

/-- Storing a pixel of a configured strip. -/
theorem cbufUpdate_writeChannels {s : State} {n : Nat} {row : List Nat} (hb : s.busy = false)
    (hc : s.stat.configured = true) (hn : n < s.pixels)
    (hr : orderRow s.conf.cfg.ch4 s.conf.cfg.order = some row) (px : List Byte) :
    CbufUpdate s (writeChannels s.cbuf (n * s.ch) row px) where
  wf := wf_writeChannels _ _ _
  below := by
    intro c hm
    rcases mem_writeChannels hm with hm | ⟨o, ho, he⟩
    · exact .inl hm
    · right
      have hlt : o < s.ch := (State.orderRow_spec hr).2.2 o ho
      rw [State.live_of_configured hc, he]
      calc n * s.ch + o < (n + 1) * s.ch := by rw [Nat.succ_mul]; omega
        _ ≤ s.pixels * s.ch := Nat.mul_le_mul_right _ hn
  busy := fun h => by simp [hb] at h

/-- Zeroing colour bytes. -/
theorem cbufUpdate_zeroFill {s : State} (hb : s.busy = false) (n : Nat) : CbufUpdate s (zeroFill s.cbuf n) where
  wf := wf_zeroFill n
  below := fun _ hm => .inl (mem_zeroFill hm)
  busy := fun h => by simp [hb] at h

/-- What a command leaves, by command: each constructor names the registers that change and the checks that have passed. -/
inductive CommandResult (s : State) : Instr → State → Prop where
  | refused (i : Instr) (x : Err) : CommandResult s i (s.raise x)
  | bindRefused : CommandResult s .configure (s.bind.raise .config)
  | configured (horder : s.conf.cfg.order.toNat < s.orderCount) (hfit : s.pixels * s.ch ≤ s.env.capBytes) :
      CommandResult s .configure
        ((((s.bind.setCbuf (zeroFill s.cbuf (s.pixels * s.ch))).setPlen 0).setTxs .idle).setConfigured true).succeed
  | released : CommandResult s .release ((((s.send .unbind).setConfigured false).setPlen 0).setTxs .idle).succeed
  | pixels (i : Instr) (m : Memory 8) (hm : CbufUpdate s m) : CommandResult s i (s.setCbuf m).succeed
  | rendered (hc : s.stat.configured = true) :
      CommandResult s .render ((s.build.setTxs .active).send (.play (s.pixels * s.bits))).succeed
  | converted (i : Instr) (v : Word) (hi : i = .convHsb2rgb ∨ i = .convRgb2rgbwSimple ∨ i = .convRgb2rgbwComplex) :
      CommandResult s i (s.setRes v).succeed

/-- All that a command can do when it goes on. -/
theorem exec_result {i : Instr} {s t : State} (h : exec i s = .next t) : CommandResult s i t := by
  obtain ⟨-, rfl⟩ | ⟨-, x, -, rfl⟩ | ⟨hb, hc, he⟩ := exec_cases h
  · exact .refused i _
  · exact .refused i x
  · cases i with
    | configure =>
      obtain ⟨-, horder, hfit⟩ : s.stat.configured = false ∧ s.conf.cfg.order.toNat < s.orderCount ∧
          s.pixels * s.ch ≤ s.env.capBytes := by simpa [checksOf] using firstFailure_eq_none.1 hc
      have he : t = s.bindAndConfigure := he
      cases ha : s.bindAnswer with
      | true => rw [he, State.bindAndConfigure_ok ha]; exact .configured horder hfit
      | false => rw [he, State.bindAndConfigure_refused ha]; exact .bindRefused
    | release => cases he; exact .released
    | setRgb n =>
      obtain ⟨hconf, hn⟩ : s.stat.configured = true ∧ n < s.pixels := by simpa [checksOf] using firstFailure_eq_none.1 hc
      obtain ⟨row, hr, rfl⟩ := he
      exact .pixels _ _ (cbufUpdate_writeChannels hb hconf hn hr _)
    | setRgbw n =>
      obtain ⟨hconf, -, hn⟩ : s.stat.configured = true ∧ s.ch ≠ 3 ∧ n < s.pixels := by
        simpa [checksOf] using firstFailure_eq_none.1 hc
      obtain ⟨row, hr, rfl⟩ := he
      exact .pixels _ _ (cbufUpdate_writeChannels hb hconf hn hr _)
    | setHsb n =>
      obtain ⟨hconf, hn⟩ : s.stat.configured = true ∧ n < s.pixels := by simpa [checksOf] using firstFailure_eq_none.1 hc
      obtain ⟨row, hr, rfl⟩ := he
      exact .pixels _ _ (cbufUpdate_writeChannels hb hconf hn hr _)
    | clear => cases he; exact .pixels _ _ (cbufUpdate_zeroFill hb _)
    | render => cases he; exact .rendered (by simpa [checksOf] using firstFailure_eq_none.1 hc)
    | convHsb2rgb => cases he; exact .converted _ _ (by simp)
    | convRgb2rgbwSimple => cases he; exact .converted _ _ (by simp)
    | convRgb2rgbwComplex => cases he; exact .converted _ _ (by simp)

/-! ## What a step can do -/

/-- The TXS that a Transmitter event leaves (R237). -/
def TxEvent.txs : TxEvent → Txs
  | .done => .done
  | .fail => .failed

theorem txEvent_of_busy {s : State} (h : s.busy = true) (e : TxEvent) : txEvent e s = s.setTxs e.txs := by
  cases e <;> simp [txEvent, h, TxEvent.txs]

theorem txEvent_of_not_busy {s : State} (h : s.busy = false) (e : TxEvent) : txEvent e s = s := by simp [txEvent, h]

/-- While BUSY a window write stores nothing (R64). -/
theorem State.cbuf_writeColour_of_busy {s : State} (h : s.busy = true) (a : Nat) (bs : List Byte) :
    (s.writeColour a bs).cbuf = s.cbuf := by
  induction bs generalizing s a with
  | nil => rfl
  | cons v bs ih =>
    have hbyte : s.writeColourByte a v = s.setWdrop true := by simp [State.writeColourByte, h]
    rw [State.writeColour, hbyte, ih (by simpa using h), State.setWdrop_cbuf]

/-- A window write stores only below LIVE, and never clears WDROP (R64). -/
theorem State.writeColour_update (s : State) (a : Nat) (bs : List Byte) :
    ∃ m b, s.writeColour a bs = (s.setCbuf m).setWdrop b ∧ CbufUpdate s m ∧ (s.stat.wdrop = true → b = true) := by
  obtain ⟨m, b, h⟩ := s.writeColour_frame a bs
  have hm : m = (s.writeColour a bs).cbuf := by simp [h]
  have hb : b = (s.writeColour a bs).stat.wdrop := by simp [h]
  refine ⟨m, b, h, ?_, fun hw => by rw [hb, State.wdrop_writeColour, hw, Bool.true_or]⟩
  rw [hm]
  exact ⟨State.wf_writeColour a bs, fun _ => State.mem_writeColour, fun hbusy => State.cbuf_writeColour_of_busy hbusy a bs⟩

/-- What a step leaves: each constructor names the registers that change and the input that changes them. -/
inductive StepResult (s : State) : State → Prop where
  | quiet (e : Env) (hcap : e.capBytes = s.env.capBytes) : StepResult s (s.setEnv e)
  | dropped (rest : List Input) : StepResult s ((s.setInputs rest).setWdrop true)
  | cleared (rest : List Input) (v : Word) (hi : s.env.inputs = .host (.write Reg.status.offset 4 v) :: rest)
      (hv : v.getLsbD 2 = true) : StepResult s ((s.setInputs rest).setWdrop false)
  | staged (rest : List Input) (c : Conf) (hu : s.stat.configured = false) : StepResult s ((s.setInputs rest).setConf c)
  | operands (rest : List Input) (o : Operands) : StepResult s ((s.setInputs rest).setOpnd o)
  | window (rest : List Input) (m : Memory 8) (b : Bool) (hm : CbufUpdate (s.setInputs rest) m)
      (hb : s.stat.wdrop = true → b = true) : StepResult s (((s.setInputs rest).setCbuf m).setWdrop b)
  | raised (rest : List Input) (w : Word) (x : Err)
      (hi : s.env.inputs = .host (.write Reg.cmd.offset 4 w) :: rest) : StepResult s ((s.setInputs rest).raise x)
  | command (rest : List Input) (w : Word) (i : Instr) (t : State)
      (hi : s.env.inputs = .host (.write Reg.cmd.offset 4 w) :: rest) (hd : decode w = .instr i)
      (hr : CommandResult (s.setInputs rest) i t) : StepResult s t
  | event (rest : List Input) (e : TxEvent) (hi : s.env.inputs = .tx e :: rest) (ha : s.stat.txs = .active) :
      StepResult s ((s.setInputs rest).setTxs e.txs)
  | reset (rest : List Input) (hi : s.env.inputs = .reset :: rest) : StepResult s (s.setInputs rest).afterReset

/-- All that a Host write can do, as the step's next input. -/
theorem busWrite_result {s t : State} {o : Offset} {n : Nat} {v : Word} {rest : List Input}
    (hi : s.env.inputs = .host (.write o n v) :: rest) (h : busWrite o n v (s.setInputs rest) = .next t) :
    StepResult s t := by
  obtain rfl | ⟨c, hu, rfl⟩ | ⟨r, rfl⟩ | ⟨rfl, rfl, hv, rfl⟩ | rfl | ⟨rfl, rfl, hcmd⟩ | ⟨a, bs, rfl⟩ := busWrite_cases h
  · exact .dropped rest
  · exact .staged rest c hu
  · exact .operands rest r
  · exact .cleared rest v hi hv
  · exact .quiet _ rfl
  · obtain ⟨-, rfl⟩ | ⟨-, -, rfl⟩ | ⟨-, i, hd, hx⟩ := issue_cases hcmd
    · exact .raised rest v _ hi
    · exact .raised rest v _ hi
    · exact .command rest v i t hi hd (exec_result hx)
  · obtain ⟨m, b, he, hm, hb⟩ := State.writeColour_update (s.setInputs rest) a bs
    rw [he]
    exact .window rest m b hm hb

/-- All that a step can do when PXE goes on. -/
theorem step_result {s t : State} (h : step s = .next t) : StepResult s t := by
  obtain ⟨-, rfl⟩ | ⟨a, rest, hi, ha⟩ | ⟨e, rest, hi, rfl⟩ | ⟨rest, hi, rfl⟩ := step_cases h
  · exact .quiet t.env rfl
  · cases a with
    | read o n => rw [next_inj ha]; exact .quiet _ rfl
    | write o n v => exact busWrite_result hi ha
  · cases hb : s.busy with
    | true => rw [txEvent_of_busy (by simpa using hb)]; exact .event rest e hi (s.busy_iff.1 hb)
    | false => rw [txEvent_of_not_busy (by simpa using hb)]; exact .quiet _ rfl
  · exact .reset rest hi

end Sys2Proof.Machine
end

section
/-! The invariant of PXE: it holds at reset and every step keeps it. One lemma per update of the state, and the steps by
`step_result` and `exec_result`. -/

namespace Sys2Proof.Machine

/-! ## The updates that the invariant does not see -/

section
variable {s : State}

theorem Inv.setErr (h : Inv s) (e : Err) : Inv (s.setErr e) := { h with }
theorem Inv.setWdrop (h : Inv s) (b : Bool) : Inv (s.setWdrop b) := { h with }
theorem Inv.setOpnd (h : Inv s) (o : Operands) : Inv (s.setOpnd o) := { h with }
theorem Inv.setRes (h : Inv s) (v : Word) : Inv (s.setRes v) := { h with }

/-- Of the inputs and outputs the invariant sees CAP_BYTES alone. -/
theorem Inv.setEnv (h : Inv s) {e : Env} (hcap : e.capBytes = s.env.capBytes) : Inv (s.setEnv e) :=
  { h with
    capacity := by simpa [hcap] using h.capacity
    cbuf_in := by simpa [hcap] using h.cbuf_in
    pbuf_in := by simpa [State.pcap, hcap] using h.pbuf_in
    config := by simpa [hcap] using h.config }

theorem Inv.setInputs (h : Inv s) (rest : List Input) : Inv (s.setInputs rest) := h.setEnv rfl
theorem Inv.send (h : Inv s) (r : TxRequest) : Inv (s.send r) := h.setEnv rfl
theorem Inv.bind (h : Inv s) : Inv s.bind := h.setEnv rfl

/-! ## The updates that it sees -/

/-- While TXS is IDLE and PLEN is 0, the invariant is about the memories and the configuration alone. -/
theorem inv_of_idle (htxs : s.stat.txs = .idle) (hplen : s.plen = 0)
    (hcw : Memory.wf s.cbuf = true) (hpw : Memory.wf s.pbuf = true)
    (hcap : 1 ≤ s.env.capBytes ∧ s.env.capBytes ≤ 65535)
    (hc : ∀ c ∈ s.cbuf, c.1 < s.env.capBytes) (hp : ∀ c ∈ s.pbuf, c.1 < s.pcap)
    (hconfig : s.stat.configured = true → s.conf.cfg.order.toNat < s.orderCount ∧ s.pixels * s.ch ≤ s.env.capBytes) :
    Inv s where
  cbuf_wf := hcw
  pbuf_wf := hpw
  capacity := hcap
  cbuf_in := hc
  pbuf_in := hp
  config := hconfig
  unconfigured_idle := fun _ => htxs
  idle_plen := fun _ => hplen
  rendered_plen := fun h => absurd htxs h
  rendered_bits := fun h => absurd htxs h
  rendered_term := fun h => absurd htxs h
  in_flight := fun h => by simp [htxs] at h

/-- LIVE lies within the colour buffer (R42). -/
theorem Inv.live_le (h : Inv s) : s.live ≤ s.env.capBytes := by
  cases hc : s.stat.configured with
  | true => rw [State.live_of_configured hc]; exact (h.config hc).2
  | false => rw [State.live_of_unconfigured hc]; exact Nat.zero_le _

/-- While unconfigured the configuration registers are free (R29). -/
theorem Inv.setConf (h : Inv s) (hu : s.stat.configured = false) (c : Conf) : Inv (s.setConf c) :=
  have hidle := h.unconfigured_idle hu
  inv_of_idle hidle (h.idle_plen hidle) h.cbuf_wf h.pbuf_wf h.capacity h.cbuf_in h.pbuf_in
    fun hc => absurd hc (by simp [hu])

/-- A store below LIVE that stores nothing while BUSY: so PBUF stays the sequence of CBUF during a transmission (R79). -/
theorem Inv.setCbuf (h : Inv s) {m : Memory 8} (hm : CbufUpdate s m) : Inv (s.setCbuf m) :=
  { h with
    cbuf_wf := hm.wf h.cbuf_wf
    cbuf_in := fun c hc => (hm.below c hc).elim (h.cbuf_in c) fun hlt => Nat.lt_of_lt_of_le hlt h.live_le
    in_flight := fun ha => by
      rw [hm.busy (s.busy_iff.2 ha)]
      exact h.in_flight ha }

/-- DONE and FAIL end a transmission (R237). -/
theorem Inv.endPlay (h : Inv s) (ha : s.stat.txs = .active) (e : TxEvent) : Inv (s.setTxs e.txs) :=
  have hrun : s.stat.txs ≠ .idle := by simp [ha]
  { h with
    unconfigured_idle := fun hu => absurd (h.unconfigured_idle hu) hrun
    idle_plen := fun hi => by cases e <;> simp [TxEvent.txs] at hi
    rendered_plen := fun _ => h.rendered_plen hrun
    rendered_bits := fun _ => h.rendered_bits hrun
    rendered_term := fun _ => h.rendered_term hrun
    in_flight := fun hx => by cases e <;> simp [TxEvent.txs] at hx }

/-- N × B descriptors and the terminator fit PBUF when N × CH bytes fit CBUF (R9). -/
theorem State.length_sequence_le_pcap (hfit : s.pixels * s.ch ≤ s.env.capBytes) : s.sequence.length ≤ s.pcap := by
  have hbits : s.pixels * s.bits = 8 * (s.pixels * s.ch) := by rw [State.bits, Nat.mul_left_comm]
  rw [State.length_sequence, State.pcap, hbits]
  omega

/-- RENDER builds the sequence and starts the transmission (R236). -/
theorem Inv.startPlay (h : Inv s) (hc : s.stat.configured = true) : Inv (s.build.setTxs .active) :=
  { h with
    pbuf_wf := Memory.wf_writeRange _ _ h.pbuf_wf
    pbuf_in := fun c hm => by
      obtain hold | ⟨-, hnew⟩ := Memory.mem_writeRange hm
      · exact h.pbuf_in c hold
      · have hle := State.length_sequence_le_pcap (h.config hc).2
        exact Nat.lt_of_lt_of_le (by simpa using hnew) hle
    unconfigured_idle := fun hu => nomatch hc.symm.trans hu
    idle_plen := fun hi => by simp at hi
    rendered_plen := fun _ => s.build_plen
    rendered_bits := fun _ k hk => by
      have hk : k < s.pixels * s.bits := by simpa using hk
      have hread := s.read_build_bit hk
      cases hbit : s.streamBit k with
      | false => exact .inl (hbit ▸ hread)
      | true => exact .inr (hbit ▸ hread)
    rendered_term := fun _ => s.read_build_term
    in_flight := fun _ m hm => s.read_build_bit hm }

/-! ## Commands and steps -/

/-- A command keeps the invariant. -/
theorem Inv.commandResult (h : Inv s) {i : Instr} {t : State} (hr : CommandResult s i t) : Inv t := by
  cases hr with
  | refused _ x => exact h.setErr x
  | bindRefused => exact h.bind.setErr _
  | configured horder hfit =>
    exact inv_of_idle rfl rfl (wf_zeroFill _ h.cbuf_wf) h.pbuf_wf h.capacity (fun c hc => h.cbuf_in c (mem_zeroFill hc))
      h.pbuf_in fun _ => ⟨horder, hfit⟩
  | released =>
    exact inv_of_idle rfl rfl h.cbuf_wf h.pbuf_wf h.capacity h.cbuf_in h.pbuf_in fun hc => absurd hc Bool.false_ne_true
  | pixels _ m hm => exact (h.setCbuf hm).setErr _
  | rendered hc => exact ((h.startPlay hc).send _).setErr _
  | converted _ v => exact (h.setRes v).setErr _

/-- Empty buffers at reset, with a capacity in its range. -/
theorem inv_afterReset (hcap : 1 ≤ s.env.capBytes ∧ s.env.capBytes ≤ 65535) : Inv s.afterReset :=
  inv_of_idle rfl rfl rfl rfl hcap (fun _ hc => absurd hc List.not_mem_nil) (fun _ hc => absurd hc List.not_mem_nil)
    fun hc => absurd hc Bool.false_ne_true

/-- A step keeps the invariant. -/
theorem Inv.stepResult (h : Inv s) {t : State} (hr : StepResult s t) : Inv t := by
  cases hr with
  | quiet e hcap => exact h.setEnv hcap
  | dropped rest => exact (h.setInputs rest).setWdrop _
  | cleared rest => exact (h.setInputs rest).setWdrop _
  | staged rest c hu => exact (h.setInputs rest).setConf hu c
  | operands rest o => exact (h.setInputs rest).setOpnd o
  | window rest m b hm => exact ((h.setInputs rest).setCbuf hm).setWdrop b
  | raised rest w x => exact (h.setInputs rest).setErr x
  | command rest w i t hi hd hr => exact (h.setInputs rest).commandResult hr
  | event rest e hi ha => exact (h.setInputs rest).endPlay ha e
  | reset rest => exact inv_afterReset h.capacity

end

/-- CAP_BYTES is in its range (R9). -/
theorem capBytes_range : 1 ≤ Config.capBytes ∧ Config.capBytes ≤ 65535 := by
  have := Config.capIndex.isLt
  unfold Config.capBytes
  omega

/-- Settles O56: by the cases of a step, each of which is an update that keeps the invariant. -/
theorem stepKeepsTheInvariant : Obligations.StepKeepsTheInvariant := by
  unfold Obligations.StepKeepsTheInvariant
  intro s t h hs
  exact h.stepResult (step_result hs)

/-- Settles O55: the reset state is idle, unconfigured and empty. -/
theorem resetEstablishesTheInvariant : Obligations.ResetEstablishesTheInvariant := by
  unfold Obligations.ResetEstablishesTheInvariant
  exact inv_afterReset (s := State.reset) capBytes_range

end Sys2Proof.Machine
end

section
/-! Who writes what (R36 to R41): each statement goes through the cases of `step_result`; all but a command, an event and reset
leave the register as it is, and a command is taken apart by its `CommandResult`. -/

namespace Sys2Proof.Machine

section
variable {s t : State} {i : Instr}

/-! ## The registers that one command may write -/

theorem CommandResult.txs (h : CommandResult s i t) (hne : t.stat.txs ≠ s.stat.txs) :
    t.stat.err = .ok ∧ ((i = .configure ∧ t.stat.txs = .idle) ∨ (i = .release ∧ t.stat.txs = .idle) ∨
      (i = .render ∧ t.stat.txs = .active)) := by
  cases h with
  | configured | released | rendered => simp
  | refused | bindRefused | pixels | converted => exact absurd rfl hne

theorem CommandResult.configured_changes (h : CommandResult s i t) (hne : t.stat.configured ≠ s.stat.configured) :
    t.stat.err = .ok ∧ ((i = .configure ∧ t.stat.configured = true) ∨ (i = .release ∧ t.stat.configured = false)) := by
  cases h with
  | configured | released => simp
  | refused | bindRefused | pixels | rendered | converted => exact absurd rfl hne

theorem CommandResult.res (h : CommandResult s i t) (hne : t.res ≠ s.res) :
    t.stat.err = .ok ∧ (i = .convHsb2rgb ∨ i = .convRgb2rgbwSimple ∨ i = .convRgb2rgbwComplex) := by
  cases h with
  | converted _ v hi => exact ⟨rfl, hi⟩
  | refused | bindRefused | configured | released | pixels | rendered => exact absurd rfl hne

theorem CommandResult.plen (h : CommandResult s i t) (hne : t.plen ≠ s.plen) :
    t.stat.err = .ok ∧ (i = .render ∨ i = .configure ∨ i = .release) := by
  cases h with
  | configured | released | rendered => simp
  | refused | bindRefused | pixels | converted => exact absurd rfl hne

theorem CommandResult.pbuf (h : CommandResult s i t) (hne : t.pbuf ≠ s.pbuf) : t.stat.err = .ok ∧ i = .render := by
  cases h with
  | rendered => exact ⟨rfl, rfl⟩
  | refused | bindRefused | configured | released | pixels | converted => exact absurd rfl hne

/-- No command writes a configuration register. -/
theorem CommandResult.conf (h : CommandResult s i t) : t.conf = s.conf := by cases h <;> rfl

/-- No command writes WDROP. -/
theorem CommandResult.wdrop (h : CommandResult s i t) : t.stat.wdrop = s.stat.wdrop := by cases h <;> rfl

/-- A decoded CMD write at the head of the inputs is the step's command. -/
theorem nextCommand_of_eq {rest : List Input} {w : Word} {j : Instr}
    (hi : s.env.inputs = .host (.write Reg.cmd.offset 4 w) :: rest) (hd : decode w = .instr i) (hj : i = j) :
    NextCommand s j :=
  ⟨w, rest, hi, hj ▸ hd⟩

/-! ## The registers that one step may write -/

theorem StepResult.configured_changes (h : StepResult s t) (hne : t.stat.configured ≠ s.stat.configured) :
    (NextCommand s .configure ∧ t.stat.err = .ok ∧ t.stat.configured = true) ∨
    (t.stat.configured = false ∧ (NextReset s ∨ (NextCommand s .release ∧ t.stat.err = .ok))) := by
  cases h with
  | command rest w i _ hi hd hr =>
    obtain ⟨hok, ⟨rfl, hx⟩ | ⟨rfl, hx⟩⟩ := hr.configured_changes hne
    · exact .inl ⟨⟨w, rest, hi, hd⟩, hok, hx⟩
    · exact .inr ⟨hx, .inr ⟨⟨w, rest, hi, hd⟩, hok⟩⟩
  | reset rest hi => exact .inr ⟨rfl, .inl ⟨rest, hi⟩⟩
  | quiet | dropped | cleared | staged | operands | window | raised | event => exact absurd rfl hne

theorem StepResult.res (h : StepResult s t) (hreset : ¬ NextReset s) (hne : t.res ≠ s.res) :
    t.stat.err = .ok ∧
      (NextCommand s .convHsb2rgb ∨ NextCommand s .convRgb2rgbwSimple ∨ NextCommand s .convRgb2rgbwComplex) := by
  cases h with
  | command rest w i _ hi hd hr =>
    have next {j : Instr} : i = j → NextCommand s j := nextCommand_of_eq hi hd
    exact (hr.res hne).imp_right (Or.imp next (Or.imp next next))
  | reset rest hi => exact absurd ⟨rest, hi⟩ hreset
  | quiet | dropped | cleared | staged | operands | window | raised | event => exact absurd rfl hne

theorem StepResult.plen (h : StepResult s t) (hreset : ¬ NextReset s) (hne : t.plen ≠ s.plen) :
    t.stat.err = .ok ∧ (NextCommand s .render ∨ NextCommand s .configure ∨ NextCommand s .release) := by
  cases h with
  | command rest w i _ hi hd hr =>
    have next {j : Instr} : i = j → NextCommand s j := nextCommand_of_eq hi hd
    exact (hr.plen hne).imp_right (Or.imp next (Or.imp next next))
  | reset rest hi => exact absurd ⟨rest, hi⟩ hreset
  | quiet | dropped | cleared | staged | operands | window | raised | event => exact absurd rfl hne

theorem StepResult.pbuf (h : StepResult s t) (hreset : ¬ NextReset s) (hne : t.pbuf ≠ s.pbuf) :
    t.stat.err = .ok ∧ NextCommand s .render := by
  cases h with
  | command rest w i _ hi hd hr => exact (hr.pbuf hne).imp_right (nextCommand_of_eq hi hd)
  | reset rest hi => exact absurd ⟨rest, hi⟩ hreset
  | quiet | dropped | cleared | staged | operands | window | raised | event => exact absurd rfl hne

theorem StepResult.err (h : StepResult s t) (hreset : ¬ NextReset s) (hne : t.stat.err ≠ s.stat.err) :
    NextCmdWrite s := by
  cases h with
  | raised rest w x hi => exact ⟨w, rest, hi⟩
  | command rest w i _ hi => exact ⟨w, rest, hi⟩
  | reset rest hi => exact absurd ⟨rest, hi⟩ hreset
  | quiet | dropped | cleared | staged | operands | window | event => exact absurd rfl hne

theorem StepResult.wdrop_cleared (h : StepResult s t) (hreset : ¬ NextReset s) (hs : s.stat.wdrop = true)
    (ht : t.stat.wdrop = false) :
    ∃ v rest, s.env.inputs = .host (.write Reg.status.offset 4 v) :: rest ∧ v.getLsbD 2 = true := by
  have hne : t.stat.wdrop ≠ true := by simp [ht]
  cases h with
  | cleared rest v hi hv => exact ⟨v, rest, hi, hv⟩
  | window rest m b hm hb => exact absurd (hb hs) hne
  | command rest w i _ hi hd hr => exact absurd (hr.wdrop.trans hs) hne
  | reset rest hi => exact absurd ⟨rest, hi⟩ hreset
  | dropped => exact absurd rfl hne
  | quiet | staged | operands | raised | event => exact absurd hs hne

theorem StepResult.conf (h : StepResult s t) (hc : s.stat.configured = true) (hreset : ¬ NextReset s) :
    t.conf = s.conf := by
  cases h with
  | staged rest c hu => simp [hu] at hc
  | command rest w i _ hi hd hr => exact hr.conf
  | reset rest hi => exact absurd ⟨rest, hi⟩ hreset
  | quiet | dropped | cleared | operands | window | raised | event => rfl

end

/-- Settles O48: a command, an event or reset. -/
theorem txsChangesOnlyAtItsEvents : Obligations.TxsChangesOnlyAtItsEvents := by
  unfold Obligations.TxsChangesOnlyAtItsEvents
  intro s t h hne
  cases step_result h with
  | command rest w i _ hi hd hr =>
    obtain ⟨hok, ⟨rfl, hx⟩ | ⟨rfl, hx⟩ | ⟨rfl, hx⟩⟩ := hr.txs hne
    · exact .inr (.inl ⟨⟨w, rest, hi, hd⟩, hok, hx⟩)
    · exact .inr (.inr (.inl ⟨⟨w, rest, hi, hd⟩, hok, hx⟩))
    · exact .inr (.inr (.inr (.inl ⟨⟨w, rest, hi, hd⟩, hok, hx⟩)))
  | event rest e hi ha =>
    cases e with
    | done => exact .inr (.inr (.inr (.inr (.inl ⟨ha, rest, hi, rfl⟩))))
    | fail => exact .inr (.inr (.inr (.inr (.inr ⟨ha, rest, hi, rfl⟩))))
  | reset rest hi => exact .inl ⟨⟨rest, hi⟩, rfl⟩
  | quiet | dropped | cleared | staged | operands | window | raised => exact absurd rfl hne

/-- Settles O49: CONFIGURED changes only at a command or at reset, which clears it. -/
theorem configuredChangesOnlyAtItsEvents : Obligations.ConfiguredChangesOnlyAtItsEvents := by
  unfold Obligations.ConfiguredChangesOnlyAtItsEvents
  intro s t h
  have key := (step_result h).configured_changes
  constructor
  · intro hs ht
    obtain ⟨hc, hok, -⟩ | ⟨hf, -⟩ := key (by simp [hs, ht])
    · exact ⟨hc, hok⟩
    · simp [ht] at hf
  · intro hs ht
    obtain ⟨-, -, hx⟩ | ⟨-, hw⟩ := key (by simp [hs, ht])
    · simp [ht] at hx
    · exact hw

/-- Settles O50: by the writers of ERR and of WDROP over a step. -/
theorem errAndWdropWriters : Obligations.ErrAndWdropWriters := by
  unfold Obligations.ErrAndWdropWriters
  intro s t h hreset
  have hr := step_result h
  exact ⟨hr.err hreset, hr.wdrop_cleared hreset⟩

/-- Settles O51: by the writers of RES, of PLEN and of PBUF over a step. -/
theorem resultAndPulseWriters : Obligations.ResultAndPulseWriters := by
  unfold Obligations.ResultAndPulseWriters
  intro s t h hreset
  have hr := step_result h
  exact ⟨hr.res hreset, hr.plen hreset, hr.pbuf hreset⟩

/-- Settles O52: the one step that writes a configuration register is taken while unconfigured. -/
theorem configurationIsFixedWhileConfigured : Obligations.ConfigurationIsFixedWhileConfigured := by
  unfold Obligations.ConfigurationIsFixedWhileConfigured
  intro s t h hc hreset
  exact (step_result h).conf hc hreset

end Sys2Proof.Machine
end

section
/-! The registers over the bus: what a write stores and a read returns (R23 to R41, R65, R66), and what reset leaves (R48). -/

namespace Sys2Proof.Machine

/-! ## What a register write does -/

/-- The configuration after a write to one of its registers (R24 to R28). -/
def Conf.write (c : Conf) (v : Word) : Reg → Conf
  | .cfg => { c with cfg := cfgOfWord v }
  | .npix => { c with npix := v.extractLsb' 0 16 }
  | .t0h => { c with t0h := storedTicks v }
  | .t0l => { c with t0l := storedTicks v }
  | .t1h => { c with t1h := storedTicks v }
  | .t1l => { c with t1l := storedTicks v }
  | .txcfg => { c with txcfg := txCfgOfWord v }
  | .opa | .oph | .ops | .opb | .cmd | .status | .res | .plen => c

/-- The operands after a write to one of their registers (R31, R32). -/
def Operands.write (o : Operands) (v : Word) : Reg → Operands
  | .opa => { o with opa := v }
  | .oph => { o with oph := v }
  | .ops => { o with ops := v }
  | .opb => { o with opb := v }
  | .cfg | .npix | .t0h | .t0l | .t1h | .t1l | .txcfg | .cmd | .status | .res | .plen => o

theorem writeReg_of_isConf {r : Reg} (h : r.isConf = true) (v : Word) (s : State) :
    writeReg r v s = .next (s.writeConf (s.conf.write v r)) := by
  cases r with
  | cfg | npix | t0h | t0l | t1h | t1l | txcfg => rfl
  | opa | oph | ops | opb | cmd | status | res | plen => simp [Reg.isConf] at h

theorem writeReg_of_isOperand {r : Reg} (h : r.isOperand = true) (v : Word) (s : State) :
    writeReg r v s = .next (s.setOpnd (s.opnd.write v r)) := by
  cases r with
  | opa | oph | ops | opb => rfl
  | cfg | npix | t0h | t0l | t1h | t1l | txcfg | cmd | status | res | plen => simp [Reg.isOperand] at h

theorem State.writeConf_of_unconfigured {s : State} (h : s.stat.configured = false) (c : Conf) :
    s.writeConf c = s.setConf c := by simp [State.writeConf, h]

theorem State.writeConf_of_configured {s : State} (h : s.stat.configured = true) (c : Conf) :
    s.writeConf c = s.setWdrop true := by simp [State.writeConf, h]

/-- A 32-bit Host write at a register's offset. -/
theorem hostAccess_write_reg (s : State) (r : Reg) (v : Word) :
    hostAccess (.write r.offset 4 v) s = writeReg r v s := busWrite_reg s r v

/-- Settles O38: every configuration register is written through `writeConf`. -/
theorem configurationIsReadOnlyWhileConfigured : Obligations.ConfigurationIsReadOnlyWhileConfigured := by
  unfold Obligations.ConfigurationIsReadOnlyWhileConfigured
  intro s r v hr hc
  rw [hostAccess_write_reg, writeReg_of_isConf hr, State.writeConf_of_configured hc]
  rfl

/-- Settles O40: by the value of the written bit 2. -/
theorem statusWriteClearsOnlyWdrop : Obligations.StatusWriteClearsOnlyWdrop := by
  unfold Obligations.StatusWriteClearsOnlyWdrop
  intro s v
  have hw : hostAccess (.write Reg.status.offset 4 v) s = .next (s.writeStatus v) := hostAccess_write_reg s .status v
  constructor <;> intro hv
  · rw [hw, State.writeStatus, hv]
    rfl
  · rw [hw, State.writeStatus, hv]
    rfl

/-! ## What is read back -/

/-- The low `k` bits of a word, read as a word again, are the word under the mask of those bits. -/
theorem zeroExtend_low_bits (v : Word) (k : Nat) :
    (v.extractLsb' 0 k).zeroExtend 32 = v &&& BitVec.ofNat 32 (2 ^ k - 1) := by
  apply BitVec.eq_of_getLsbD_eq
  intro j hj
  simp only [BitVec.getLsbD_setWidth, BitVec.getLsbD_extractLsb', BitVec.getLsbD_and, BitVec.getLsbD_ofNat,
    Nat.testBit_two_pow_sub_one, hj, decide_true, Bool.true_and, Nat.zero_add, Bool.and_comm]

theorem cfgWord_cfgOfWord (v : Word) : (cfgOfWord v).word = v &&& Reg.cfg.mask := by
  apply BitVec.eq_of_getLsbD_eq
  intro j hj
  simp only [Cfg.word, cfgOfWord, Reg.mask, BitVec.getLsbD_append]
  interval_cases j <;> simp

theorem txCfgWord_txCfgOfWord (v : Word) : (txCfgOfWord v).word = v &&& Reg.txcfg.mask := by
  apply BitVec.eq_of_getLsbD_eq
  intro j hj
  simp only [TxCfg.word, txCfgOfWord, Reg.mask, BitVec.getLsbD_append]
  interval_cases j <;> simp

/-- A written configuration register reads back under its mask (R24 to R30). -/
theorem State.readReg_setConf_write_same (s : State) {r : Reg} (h : r.isConf = true) (v : Word) :
    (s.setConf (s.conf.write v r)).readReg r = v &&& r.mask := by
  cases r with
  | cfg => exact cfgWord_cfgOfWord v
  | txcfg => exact txCfgWord_txCfgOfWord v
  | npix => exact zeroExtend_low_bits v 16
  | t0h | t0l | t1h | t1l => exact zeroExtend_low_bits v 15
  | opa | oph | ops | opb | cmd | status | res | plen => simp [Reg.isConf] at h

/-- A written operand register reads back whole (R31, R32). -/
theorem State.readReg_setOpnd_write_same (s : State) {r : Reg} (h : r.isOperand = true) (v : Word) :
    (s.setOpnd (s.opnd.write v r)).readReg r = v &&& r.mask := by
  have hall : v &&& 0xFFFFFFFF#32 = v := BitVec.and_allOnes
  cases r with
  | opa | oph | ops | opb => exact hall.symm
  | cfg | npix | t0h | t0l | t1h | t1l | txcfg | cmd | status | res | plen => simp [Reg.isOperand] at h

/-- A write to one configuration register leaves every other register as it reads. -/
theorem State.readReg_setConf_write_other (s : State) (v : Word) {q r : Reg} (h : q ≠ r) :
    (s.setConf (s.conf.write v r)).readReg q = s.readReg q := by
  cases r <;> cases q <;> simp at h <;> rfl

/-- A write to one operand register leaves every other register as it reads. -/
theorem State.readReg_setOpnd_write_other (s : State) (v : Word) {q r : Reg} (h : q ≠ r) :
    (s.setOpnd (s.opnd.write v r)).readReg q = s.readReg q := by
  cases r <;> cases q <;> simp at h <;> rfl

/-- Settles O37: by the two kinds of registers, each read back through the write's own lemma. -/
theorem writtenRegisterReadsBackMasked : Obligations.WrittenRegisterReadsBackMasked := by
  unfold Obligations.WrittenRegisterReadsBackMasked
  intro s r v h
  simp only [hostAccess_write_reg, State.busRead_reg]
  obtain ⟨hr, hu⟩ | hr := h
  · refine ⟨s.setConf (s.conf.write v r), ?_, s.readReg_setConf_write_same hr v,
      fun q hq => s.readReg_setConf_write_other v hq, rfl, rfl, rfl, rfl, rfl, rfl⟩
    rw [writeReg_of_isConf hr, State.writeConf_of_unconfigured hu]
  · exact ⟨s.setOpnd (s.opnd.write v r), writeReg_of_isOperand hr v s, s.readReg_setOpnd_write_same hr v,
      fun q hq => s.readReg_setOpnd_write_other v hq, rfl, rfl, rfl, rfl, rfl, rfl⟩

/-! ## Reads that return 0 -/

theorem State.busRead_of_illFormed {o : Offset} {n : Nat} (h : wellFormedAccess o.toNat n = false) (s : State) :
    s.busRead o n = 0 := by simp [State.busRead, h]

/-- The reserved region allows no access (R61). -/
theorem wellFormedAccess_reserved {o : Nat} (hlo : 0x020000 ≤ o) (hhi : o < 0x200000) (n : Nat) :
    wellFormedAccess o n = false := by
  have hr : regionOf o = .reserved := by
    rw [regionOf, if_neg (by omega), if_neg (by omega), if_pos hhi]
  rw [wellFormedAccess, hr]

/-- A read in the register region returns its register, or 0 where there is none (R66). -/
theorem State.busRead_eq_zero_of_registers {s : State} {o : Offset} (ho : o.toNat < 0x10000)
    (h : ∀ r, regAt o.toNat = some r → s.readReg r = 0) (n : Nat) : s.busRead o n = 0 := by
  have hr : regionOf o.toNat = .registers := by rw [regionOf, if_pos ho]
  unfold State.busRead
  rw [hr]
  cases hreg : regAt o.toNat with
  | none => simp
  | some r => simp [h r hreg]

/-- The registers lie below 0x040, and 0x01C is reserved (R23). -/
theorem Reg.offset_bounds (r : Reg) : r.offset.toNat < 0x040 ∧ r.offset.toNat ≠ 0x01C := by
  cases r <;> decide

theorem regAt_reserved {o : Offset} (h : o.toNat = 0x01C ∨ 0x040 ≤ o.toNat) {r : Reg} : regAt o.toNat ≠ some r := by
  intro hr
  have ho := regAt_eq_some hr
  have := r.offset_bounds
  rw [← ho] at this
  omega

/-- Settles O42: by the kinds of offsets; CMD is the one register that always reads 0. -/
theorem illFormedAndReservedReadZero : Obligations.IllFormedAndReservedReadZero := by
  unfold Obligations.IllFormedAndReservedReadZero
  intro s o n h
  obtain hill | hgap | ⟨hlo, hhi⟩ | ⟨hlo, hhi⟩ | hcmd := h
  · exact State.busRead_of_illFormed hill s
  · exact State.busRead_eq_zero_of_registers (by omega) (fun r hr => absurd hr (regAt_reserved (.inl hgap))) n
  · exact State.busRead_eq_zero_of_registers hhi (fun r hr => absurd hr (regAt_reserved (.inr hlo))) n
  · exact State.busRead_of_illFormed (wellFormedAccess_reserved hlo hhi n) s
  · refine State.busRead_eq_zero_of_registers (by omega) (fun r hr => ?_) n
    have : r = .cmd := by simpa [hcmd, regAt] using hr.symm
    rw [this]
    rfl

/-- Zero bytes make the zero word (R62). -/
theorem littleEndian_eq_zero {bs : List Byte} (h : ∀ b ∈ bs, b = 0) : littleEndian bs = 0 := by
  induction bs with
  | nil => rfl
  | cons b bs ih =>
    have hb : b = 0 := h b (by simp)
    have hrest : littleEndian bs = 0 := ih fun c hc => h c (by simp [hc])
    simp [littleEndian, hb, hrest]

/-- With LIVE = 0 and PLEN = 0 everything beyond the registers reads 0 (R63, R67). -/
theorem State.busRead_eq_zero_of_empty {s : State} (hl : s.live = 0) (hp : s.plen = 0) {o : Offset}
    (ho : 0x010000 ≤ o.toNat) (n : Nat) : s.busRead o n = 0 := by
  have hr : regionOf o.toNat ≠ .registers := by
    rw [regionOf, if_neg (by omega)]
    split
    · simp
    · split <;> simp
  unfold State.busRead
  cases hreg : regionOf o.toNat with
  | registers => exact absurd hreg hr
  | colour => simp [littleEndian_eq_zero, State.colourByte, hl]
  | reserved => simp
  | pulse => simp [littleEndian_eq_zero, State.pulseByte, hp]

@[simp] theorem State.readReg_setEnv (s : State) (e : Env) (r : Reg) : (s.setEnv e).readReg r = s.readReg r := by
  cases r <;> rfl

/-- Every register's reset value is 0 (R48). -/
theorem State.readReg_reset (r : Reg) : State.reset.readReg r = 0 := by cases r <;> decide

/-- Settles O54: after reset every register is at 0, and LIVE and PLEN are 0. -/
theorem resetClearsEveryRegister : Obligations.ResetClearsEveryRegister := by
  unfold Obligations.ResetClearsEveryRegister
  intro s t rest hi hs
  have ht : t = (s.setInputs rest).afterReset := by
    rw [step, hi] at hs
    exact next_inj hs
  rw [ht]
  refine ⟨fun r => ?_, fun o n ho => State.busRead_eq_zero_of_empty rfl rfl ho n, rfl, rfl, rfl⟩
  rw [State.busRead_reg, State.afterReset, State.readReg_setEnv, State.readReg_reset]

/-! ## STATUS -/

/-- STATUS as read, field by field (R34). -/
theorem State.statusWord_fields (s : State) :
    s.statusWord.getLsbD 0 = s.busy ∧ s.statusWord.getLsbD 1 = s.stat.configured ∧
    s.statusWord.getLsbD 2 = s.stat.wdrop ∧ s.statusWord.getLsbD 3 = false ∧
    s.statusWord.extractLsb' 4 2 = s.stat.txs.code ∧ s.statusWord.extractLsb' 6 2 = 0 ∧
    s.statusWord.extractLsb' 8 4 = s.stat.err.code ∧ s.statusWord.extractLsb' 12 20 = 0 := by
  simp (disch := decide) only [State.statusWord, BitVec.getLsbD_append, BitVec.extractLsb'_append_eq_of_le,
    BitVec.extractLsb'_append_eq_of_add_le]
  simp

/-- BUSY is the TXS code 1 (R35). -/
theorem State.busy_eq_code (s : State) : s.busy = decide (s.stat.txs.code = 1) := by
  unfold State.busy
  cases s.stat.txs <;> rfl

/-- ERR codes stay below 8 (R260). -/
theorem Err.code_lt (e : Err) : e.code.toNat < 8 := by cases e <;> decide

/-- Settles O44: the read is the STATUS word, whose fields are those of the state. -/
theorem statusWordLayout : Obligations.StatusWordLayout := by
  unfold Obligations.StatusWordLayout
  intro s
  have hread : s.busRead Reg.status.offset 4 = s.statusWord := s.busRead_reg .status
  obtain ⟨hbusy, hconf, hwdrop, h3, htxs, h6, herr, h12⟩ := s.statusWord_fields
  rw [hread, htxs]
  exact ⟨hbusy.trans s.busy_eq_code, hconf, hwdrop, h3, rfl, h6, herr, h12, s.stat.err.code_lt⟩

end Sys2Proof.Machine
end

section
/-! Unspecified contents are unobservable (R44, R48). Two states that differ only in them read alike (`busRead`), and each
function of the model takes them to outcomes that differ only in them: one lemma per function, down to `step`. -/

namespace Sys2Proof.Machine

/-- Two outcomes that no rule tells apart: of the same kind, with the same reason or with such next states. -/
inductive SameOutcome : Host.Outcome State Fault Refusal → Host.Outcome State Fault Refusal → Prop where
  | next {s t : State} (h : SameObservable s t) : SameOutcome (.next s) (.next t)
  | fault (x : Fault) : SameOutcome (.fault x) (.fault x)
  | refused (x : Refusal) : SameOutcome (.refused x) (.refused x)

theorem SameOutcome.exists_next {s' : State} {p : Host.Outcome State Fault Refusal} (h : SameOutcome (.next s') p) :
    ∃ t', p = .next t' ∧ SameObservable s' t' := by
  cases h with
  | next h => exact ⟨_, rfl, h⟩

theorem SameOutcome.eq_fault {x : Fault} {p : Host.Outcome State Fault Refusal} (h : SameOutcome (.fault x) p) :
    p = .fault x := by cases h; rfl

theorem SameOutcome.eq_refused {x : Refusal} {p : Host.Outcome State Fault Refusal} (h : SameOutcome (.refused x) p) :
    p = .refused x := by cases h; rfl

theorem SameObservable.refl (s : State) : SameObservable s s := ⟨rfl, rfl, rfl, rfl, rfl, rfl, fun _ _ => rfl, fun _ _ => rfl⟩

/-- A channel is stored at the same byte in both buffers. -/
theorem read_writeChannels_congr {m n : Memory 8} (base : Nat) (row : List Nat) (px : List Byte)
    {a : Nat} (h : m.read a = n.read a) :
    Memory.read (writeChannels m base row px) a = Memory.read (writeChannels n base row px) a := by
  induction row generalizing m n px with
  | nil => simpa [writeChannels] using h
  | cons o row ih =>
    cases px with
    | nil => simpa [writeChannels] using h
    | cons v px => exact ih px (by rw [Memory.read_write, Memory.read_write, h])

namespace SameObservable

section
variable {s t : State} (h : SameObservable s t)
include h

/-! ## What is derived from the observable part -/

theorem busy : t.busy = s.busy := by rw [State.busy, State.busy, h.stat]
theorem pixels : t.pixels = s.pixels := by rw [State.pixels, State.pixels, h.conf]
theorem ch : t.ch = s.ch := by rw [State.ch, State.ch, h.conf]
theorem bits : t.bits = s.bits := by rw [State.bits, State.bits, h.ch]
theorem live_eq : t.live = s.live := by rw [State.live, State.live, h.stat, h.pixels, h.ch]
theorem orderCount : t.orderCount = s.orderCount := by rw [State.orderCount, State.orderCount, h.ch]
theorem bindAnswer : t.bindAnswer = s.bindAnswer := by rw [State.bindAnswer, State.bindAnswer, h.env]
theorem hsbOperand : t.hsbOperand = s.hsbOperand := by rw [State.hsbOperand, State.hsbOperand, h.opnd]

theorem storedChannels (p : Rgb) : t.storedChannels p = s.storedChannels p := by
  rw [State.storedChannels, State.storedChannels, State.convert, State.convert, h.ch, h.conf]

theorem checksOf (i : Instr) : checksOf i t = checksOf i s := by
  cases i <;> simp only [Machine.checksOf, h.stat, h.conf, h.env, h.pixels, h.ch, h.orderCount]

/-- The stream of a configured strip comes from the bytes below LIVE (R230). -/
theorem sequence (hc : s.stat.configured = true) : t.sequence = s.sequence := by
  have hlive := State.live_of_configured hc
  rw [State.sequence, State.sequence, h.pixels, h.bits]
  congr 1
  refine List.map_congr_left fun m hm => ?_
  have hbit : s.streamBit m = t.streamBit m :=
    State.streamBit_congr h.conf (List.mem_range.1 hm) fun a ha => h.live a (hlive ▸ ha)
  rw [h.conf, hbit]

/-! ## Reads -/

theorem readReg (r : Reg) : t.readReg r = s.readReg r := by
  cases r <;> simp only [State.readReg, State.statusWord, h.conf, h.opnd, h.stat, h.res, h.plen, h.busy]

theorem colourByte (a : Nat) : t.colourByte a = s.colourByte a := by
  rw [State.colourByte, State.colourByte, h.live_eq]
  split
  · rename_i ha; rw [h.live a ha]
  · rfl

theorem pulseByte (p : Nat) : t.pulseByte p = s.pulseByte p := by
  rw [State.pulseByte, State.pulseByte, ← h.plen]
  split
  · rename_i hp; rw [h.valid _ hp]
  · rfl

theorem busRead (o : Offset) (n : Nat) : t.busRead o n = s.busRead o n := by
  simp only [State.busRead, h.readReg, h.colourByte, h.pulseByte]

/-! ## Updates -/

theorem setErr (e : Err) : SameObservable (s.setErr e) (t.setErr e) :=
  { h with stat := by rw [State.setErr, State.setErr, h.stat] }
theorem setWdrop (b : Bool) : SameObservable (s.setWdrop b) (t.setWdrop b) :=
  { h with stat := by rw [State.setWdrop, State.setWdrop, h.stat] }
theorem setTxs (x : Txs) : SameObservable (s.setTxs x) (t.setTxs x) :=
  { h with stat := by rw [State.setTxs, State.setTxs, h.stat] }
theorem setOpnd (o : Operands) : SameObservable (s.setOpnd o) (t.setOpnd o) := { h with opnd := rfl }
theorem setRes (v : Word) : SameObservable (s.setRes v) (t.setRes v) := { h with res := rfl }
theorem setEnv (e : Env) : SameObservable (s.setEnv e) (t.setEnv e) := { h with env := rfl }

theorem setInputs (rest : List Input) : SameObservable (s.setInputs rest) (t.setInputs rest) := by
  rw [State.setInputs, State.setInputs, ← h.env]
  exact h.setEnv _

theorem send (r : TxRequest) : SameObservable (s.send r) (t.send r) := by
  rw [State.send, State.send, ← h.env]
  exact h.setEnv _

theorem bind : SameObservable s.bind t.bind := by
  rw [State.bind, State.bind, ← h.env, ← h.conf]
  exact h.setEnv _

/-- While unconfigured LIVE stays 0, whatever the configuration registers hold (R42). -/
theorem setConf (hu : s.stat.configured = false) (c : Conf) : SameObservable (s.setConf c) (t.setConf c) :=
  { h with
    conf := rfl
    live := fun a ha => by
      rw [State.live_of_unconfigured (by exact hu)] at ha
      exact absurd ha (Nat.not_lt_zero a) }

theorem setCbuf {m n : Memory 8} (hread : ∀ a, a < s.live → m.read a = n.read a) :
    SameObservable (s.setCbuf m) (t.setCbuf n) :=
  { h with live := hread }

/-- PLEN = 0 makes every descriptor unspecified (R44). -/
theorem setPlen_zero : SameObservable (s.setPlen 0) (t.setPlen 0) :=
  { h with plen := rfl, valid := fun k hk => absurd hk (Nat.not_lt_zero k) }

/-- CONFIGURED can change where all the bytes that then lie below LIVE agree. -/
theorem setConfigured {b : Bool} (hread : ∀ a, a < (s.setConfigured b).live → s.cbuf.read a = t.cbuf.read a) :
    SameObservable (s.setConfigured b) (t.setConfigured b) :=
  { h with stat := by rw [State.setConfigured, State.setConfigured, h.stat], live := hread }

/-! ## Commands -/

/-- A command whose effects no rule tells apart where all its checks have passed. -/
theorem command {cs : List (Bool × Err)} {e f : Host.Outcome State Fault Refusal}
    (he : firstFailure cs = none → SameOutcome e f) : SameOutcome (command s cs e) (command t cs f) := by
  cases hb : s.busy with
  | true =>
    rw [command_busy hb, command_busy (h.busy.trans hb)]
    exact .next (h.setErr _)
  | false =>
    cases hc : firstFailure cs with
    | none =>
      rw [command_passes hb hc, command_passes (h.busy.trans hb) hc]
      exact he hc
    | some x =>
      rw [command_fails hb hc, command_fails (h.busy.trans hb) hc]
      exact .next (h.setErr x)

/-- Zero filling the same bytes. -/
theorem read_zeroFill (n : Nat) {a : Nat} (ha : a < n ∨ a < s.live) :
    Memory.read (zeroFill s.cbuf n) a = Memory.read (zeroFill t.cbuf n) a := by
  rw [Machine.read_zeroFill, Machine.read_zeroFill]
  split
  · rfl
  · rename_i hn; exact h.live a (ha.resolve_left hn)

theorem bindAndConfigure : SameObservable s.bindAndConfigure t.bindAndConfigure := by
  cases ha : s.bindAnswer with
  | false =>
    rw [State.bindAndConfigure_refused ha, State.bindAndConfigure_refused (h.bindAnswer.trans ha)]
    exact h.bind.setErr _
  | true =>
    rw [State.bindAndConfigure_ok ha, State.bindAndConfigure_ok (h.bindAnswer.trans ha), h.pixels, h.ch]
    have hfill : SameObservable (s.bind.setCbuf (zeroFill s.cbuf (s.pixels * s.ch)))
        (t.bind.setCbuf (zeroFill t.cbuf (s.pixels * s.ch))) :=
      h.bind.setCbuf fun a hlive => h.read_zeroFill _ (.inr hlive)
    exact ((hfill.setPlen_zero.setTxs .idle).setConfigured (b := true) fun a hlt => h.read_zeroFill _ (.inl hlt)).setErr .ok

/-- RELEASE leaves LIVE = 0 and PLEN = 0. -/
theorem release : SameObservable ((((s.send .unbind).setConfigured false).setPlen 0).setTxs .idle).succeed
    ((((t.send .unbind).setConfigured false).setPlen 0).setTxs .idle).succeed :=
  have hconf : SameObservable ((s.send .unbind).setConfigured false) ((t.send .unbind).setConfigured false) :=
    (h.send .unbind).setConfigured fun a hlt => absurd hlt (Nat.not_lt_zero a)
  (hconf.setPlen_zero.setTxs .idle).setErr .ok

/-- RENDER builds the same sequence, and PLEN then ends with it. -/
theorem build (hc : s.stat.configured = true) : SameObservable s.build t.build where
  conf := h.conf
  opnd := h.opnd
  stat := h.stat
  res := h.res
  plen := by rw [State.build, State.build, h.pixels, h.bits]; rfl
  env := h.env
  live := h.live
  valid := fun k hk => by
    have hk : k < s.sequence.length := by simpa using hk
    have hs := Memory.read_writeRange_in s.pbuf 0 s.sequence k hk
    have ht := Memory.read_writeRange_in t.pbuf 0 s.sequence k hk
    rw [Nat.zero_add] at hs ht
    rw [State.build_pbuf, State.build_pbuf, h.sequence hc, hs, ht]

theorem serialize (px : List Byte) (i : Nat) : SameOutcome (serialize s px i) (serialize t px i) := by
  unfold Machine.serialize
  rw [← h.conf, h.ch]
  cases orderRow s.conf.cfg.ch4 s.conf.cfg.order with
  | none => exact .fault _
  | some row => exact .next ((h.setCbuf fun a ha => read_writeChannels_congr _ row px (h.live a ha)).setErr .ok)

theorem exec (i : Instr) : SameOutcome (exec i s) (exec i t) := by
  have run {e f : Host.Outcome State Fault Refusal} (he : firstFailure (Machine.checksOf i s) = none → SameOutcome e f) :
      SameOutcome (Machine.command s (Machine.checksOf i s) e) (Machine.command t (Machine.checksOf i t) f) := by
    rw [h.checksOf]
    exact h.command he
  cases i with
  | configure => exact run fun _ => .next h.bindAndConfigure
  | release => exact run fun _ => .next h.release
  | setRgb n =>
    refine run fun _ => ?_
    rw [storeRgb, storeRgb, ← h.opnd, h.storedChannels]
    exact h.serialize _ n
  | setRgbw n =>
    refine run fun _ => ?_
    rw [← h.opnd]
    exact h.serialize _ n
  | setHsb n =>
    refine run fun _ => ?_
    rw [storeRgb, storeRgb, h.hsbOperand, h.storedChannels]
    exact h.serialize _ n
  | clear =>
    refine run fun _ => .next ?_
    rw [h.live_eq]
    exact (h.setCbuf fun a ha => h.read_zeroFill _ (.inr ha)).setErr .ok
  | render =>
    refine run fun hc => .next ?_
    have hconf : s.stat.configured = true := by simpa [Machine.checksOf] using firstFailure_eq_none.1 hc
    rw [h.pixels, h.bits]
    exact (((h.build hconf).setTxs .active).send _).setErr .ok
  | convHsb2rgb =>
    refine run fun _ => .next ?_
    rw [h.hsbOperand]
    exact (h.setRes _).setErr .ok
  | convRgb2rgbwSimple =>
    refine run fun _ => .next ?_
    rw [← h.opnd]
    exact (h.setRes _).setErr .ok
  | convRgb2rgbwComplex =>
    refine run fun _ => .next ?_
    rw [← h.opnd]
    exact (h.setRes _).setErr .ok

/-! ## Host accesses and steps -/

theorem issue (w : Word) : SameOutcome (issue w s) (issue w t) := by
  unfold Machine.issue
  rw [h.busy]
  split
  · exact .next (h.setErr _)
  · cases decode w with
    | illegal x => exact .next (h.setErr _)
    | instr i => exact h.exec i

theorem writeConf (c : Conf) : SameObservable (s.writeConf c) (t.writeConf c) := by
  cases hc : s.stat.configured with
  | true =>
    rw [State.writeConf_of_configured hc, State.writeConf_of_configured (h.stat ▸ hc)]
    exact h.setWdrop true
  | false =>
    rw [State.writeConf_of_unconfigured hc, State.writeConf_of_unconfigured (h.stat ▸ hc)]
    exact h.setConf hc c

theorem writeStatus (v : Word) : SameObservable (s.writeStatus v) (t.writeStatus v) := by
  unfold State.writeStatus
  split
  · exact h.setWdrop false
  · exact h

theorem writeReg (r : Reg) (v : Word) : SameOutcome (writeReg r v s) (writeReg r v t) := by
  have conf (hr : r.isConf = true) : SameOutcome (Machine.writeReg r v s) (Machine.writeReg r v t) := by
    rw [writeReg_of_isConf hr, writeReg_of_isConf hr, ← h.conf]
    exact .next (h.writeConf _)
  have operand (hr : r.isOperand = true) : SameOutcome (Machine.writeReg r v s) (Machine.writeReg r v t) := by
    rw [writeReg_of_isOperand hr, writeReg_of_isOperand hr, ← h.opnd]
    exact .next (h.setOpnd _)
  cases r with
  | cfg | npix | t0h | t0l | t1h | t1l | txcfg => exact conf rfl
  | opa | oph | ops | opb => exact operand rfl
  | cmd => exact h.issue v
  | status => exact .next (h.writeStatus v)
  | res | plen => exact .next (h.setWdrop true)

theorem writeColourByte (a : Nat) (b : Byte) : SameObservable (s.writeColourByte a b) (t.writeColourByte a b) := by
  unfold State.writeColourByte
  rw [h.live_eq, h.busy]
  split
  · exact h.setCbuf fun c hc => by rw [Memory.read_write, Memory.read_write, h.live c hc]
  · exact h.setWdrop true

theorem writeColour (a : Nat) (bs : List Byte) :
    SameObservable (s.writeColour a bs) (t.writeColour a bs) := by
  induction bs generalizing s t a with
  | nil => exact h
  | cons b bs ih => exact ih (h.writeColourByte a b) (a + 1)

theorem busWrite (o : Offset) (n : Nat) (v : Word) : SameOutcome (busWrite o n v s) (busWrite o n v t) := by
  have dropped : SameOutcome (.next s.dropWrite) (.next t.dropWrite) := .next (h.setWdrop true)
  unfold Machine.busWrite
  split
  · cases regionOf o.toNat with
    | registers =>
      cases regAt o.toNat with
      | none => exact dropped
      | some r => exact h.writeReg r v
    | colour => exact .next (h.writeColour _ _)
    | reserved => exact dropped
    | pulse => exact dropped
  · exact dropped

theorem hostAccess (a : Access) : SameOutcome (hostAccess a s) (hostAccess a t) := by
  cases a with
  | read o n =>
    simp only [Machine.hostAccess, h.busRead, ← h.env]
    exact .next (h.setEnv _)
  | write o n v => exact h.busWrite o n v

theorem txEvent (e : TxEvent) : SameObservable (txEvent e s) (txEvent e t) := by
  cases hb : s.busy with
  | true =>
    rw [txEvent_of_busy hb, txEvent_of_busy (h.busy.trans hb)]
    exact h.setTxs _
  | false =>
    rw [txEvent_of_not_busy hb, txEvent_of_not_busy (h.busy.trans hb)]
    exact h

/-- Reset leaves two such states equal. -/
theorem afterReset : t.afterReset = s.afterReset := by rw [State.afterReset, State.afterReset, h.env]

theorem consume (i : Input) : SameOutcome (consume i s) (consume i t) := by
  cases i with
  | host a => exact h.hostAccess a
  | otherHost a => exact .refused _
  | tx e => exact .next (h.txEvent e)
  | reset =>
    unfold Machine.consume
    rw [h.afterReset]
    exact .next (.refl _)

theorem step : SameOutcome (step s) (step t) := by
  unfold Machine.step
  rw [← h.env]
  cases s.env.inputs with
  | nil => exact .next h
  | cons i rest => exact (h.setInputs rest).consume i

end

end SameObservable

/-- Settles O58: by the commuting lemmas for reads and for a step. -/
theorem unspecifiedContentsAreUnobservable : Obligations.UnspecifiedContentsAreUnobservable := by
  unfold Obligations.UnspecifiedContentsAreUnobservable
  intro s t h
  refine ⟨fun o n => (h.busRead o n).symm, fun s' hs => ?_, fun x hs => ?_, fun x hs => ?_⟩
  · exact (hs ▸ h.step).exists_next
  · exact (hs ▸ h.step).eq_fault
  · exact (hs ▸ h.step).eq_refused

end Sys2Proof.Machine
end

section
/-! Host accesses by region and steps by input (20_memory.md R61, R73): which accesses are allowed, which writes are dropped
whole (R65, R66, R68), and what a step does with its next input. -/

namespace Sys2Proof.Machine

/-! ## The regions (R60, R61) -/

theorem regionOf_registers {o : Nat} (h : o < 0x010000) : regionOf o = .registers := by rw [regionOf, if_pos h]

theorem regionOf_colour {o : Nat} (hlo : 0x010000 ≤ o) (hhi : o < 0x020000) : regionOf o = .colour := by
  rw [regionOf, if_neg (by omega), if_pos hhi]

theorem regionOf_pulse {o : Nat} (h : 0x200000 ≤ o) : regionOf o = .pulse := by
  rw [regionOf, if_neg (by omega), if_neg (by omega), if_neg (by omega)]

theorem wellFormedAccess_registers {o n : Nat} (h : o < 0x010000) :
    wellFormedAccess o n = true ↔ n = 4 ∧ o % 4 = 0 := by
  rw [wellFormedAccess, regionOf_registers h, Bool.and_eq_true, decide_eq_true_eq, decide_eq_true_eq]

/-- A window allows 8, 16 and 32 bits, naturally aligned. -/
theorem wellFormedAccess_window {o n : Nat} (h : regionOf o = .colour ∨ regionOf o = .pulse) :
    wellFormedAccess o n = true ↔ n = 1 ∨ (n = 2 ∧ o % 2 = 0) ∨ (n = 4 ∧ o % 4 = 0) := by
  have hdef : wellFormedAccess o n = true ↔ (n = 1 ∨ n = 2 ∨ n = 4) ∧ o % n = 0 := by
    obtain h | h := h <;> simp [wellFormedAccess, h, or_assoc]
  rw [hdef]
  constructor
  · rintro ⟨rfl | rfl | rfl, ho⟩ <;> simp [ho]
  · rintro (rfl | ⟨rfl, ho⟩ | ⟨rfl, ho⟩)
    · simp [Nat.mod_one]
    · simp [ho]
    · simp [ho]

/-- Settles O43: region by region. -/
theorem allowedWidthsAndAlignments : Obligations.AllowedWidthsAndAlignments := by
  unfold Obligations.AllowedWidthsAndAlignments
  intro o n
  obtain hreg | ⟨hlo, hhi⟩ | ⟨hlo, hhi⟩ | hlo : o.toNat < 0x010000 ∨ (0x010000 ≤ o.toNat ∧ o.toNat < 0x020000) ∨
      (0x020000 ≤ o.toNat ∧ o.toNat < 0x200000) ∨ 0x200000 ≤ o.toNat := by omega
  · rw [wellFormedAccess_registers hreg]
    omega
  · rw [wellFormedAccess_window (.inl (regionOf_colour hlo hhi))]
    omega
  · rw [wellFormedAccess_reserved hlo hhi]
    simp only [Bool.false_eq_true, false_iff]
    omega
  · rw [wellFormedAccess_window (.inr (regionOf_pulse hlo))]
    omega

/-! ## One input per step (R73) -/

theorem step_cons {s : State} {i : Input} {rest : List Input} (h : s.env.inputs = i :: rest) :
    step s = consume i (s.setInputs rest) := by
  rw [step, h]

/-- A CMD write issues its word (R90). -/
theorem step_cmdWrite {s : State} {w : Word} {rest : List Input}
    (h : s.env.inputs = .host (.write Reg.cmd.offset 4 w) :: rest) : step s = issue w (s.setInputs rest) :=
  (step_cons h).trans (hostAccess_write_reg _ .cmd w)

/-- Settles O5: a CMD write issues its word, which decodes to the command. -/
theorem stepRunsTheDecodedCommand : Obligations.StepRunsTheDecodedCommand := by
  unfold Obligations.StepRunsTheDecodedCommand
  intro s w rest i hi hd
  exact (step_cmdWrite hi).trans (issue_instr hd _)

/-- Settles O7: each kind of input is consumed by its own arm. -/
theorem stepTakesOneInput : Obligations.StepTakesOneInput := by
  unfold Obligations.StepTakesOneInput
  refine ⟨fun s hi => ?_, fun s a rest hi => step_cons hi, fun s a rest hi => step_cons hi,
    fun s e rest hi => step_cons hi, fun s rest hi => step_cons hi⟩
  rw [step, hi]

/-- Settles O41: a read is an update of `lastRead`. -/
theorem readsHaveNoSideEffect : Obligations.ReadsHaveNoSideEffect := by
  unfold Obligations.ReadsHaveNoSideEffect
  intro s o n
  rfl

/-! ## Writes that are dropped whole (R65, R66, R68) -/

theorem busWrite_of_illFormed {o : Offset} {n : Nat} (h : wellFormedAccess o.toNat n = false) (v : Word) (s : State) :
    busWrite o n v s = .next (s.setWdrop true) := by
  simp [busWrite, h]

/-- A write in the register region is dropped where there is no register, and at a register that takes no write. -/
theorem busWrite_dropped_of_registers {o : Offset} {v : Word} {s : State} (ho : o.toNat < 0x10000)
    (h : ∀ r, regAt o.toNat = some r → writeReg r v s = .next (s.setWdrop true)) (n : Nat) :
    busWrite o n v s = .next (s.setWdrop true) := by
  unfold busWrite
  rw [regionOf_registers ho]
  cases hreg : regAt o.toNat with
  | none => simp
  | some r => simp [h r hreg]

/-- The pulse window is read-only (R68). -/
theorem busWrite_dropped_of_pulse {o : Offset} (ho : 0x200000 ≤ o.toNat) (n : Nat) (v : Word) (s : State) :
    busWrite o n v s = .next (s.setWdrop true) := by
  simp [busWrite, regionOf_pulse ho]

/-- Settles O39: by the kinds of offsets; RES and PLEN are the two registers that drop every write. -/
theorem droppedWritesSetOnlyWdrop : Obligations.DroppedWritesSetOnlyWdrop := by
  unfold Obligations.DroppedWritesSetOnlyWdrop
  intro s o n v h
  change busWrite o n v s = .next (s.setWdrop true)
  obtain hill | hgap | ⟨hlo, hhi⟩ | ⟨hlo, hhi⟩ | hpulse | hres | hplen := h
  · exact busWrite_of_illFormed hill v s
  · exact busWrite_dropped_of_registers (by omega) (fun r hr => absurd hr (regAt_reserved (.inl hgap))) n
  · exact busWrite_dropped_of_registers hhi (fun r hr => absurd hr (regAt_reserved (.inr hlo))) n
  · exact busWrite_of_illFormed (wellFormedAccess_reserved hlo hhi n) v s
  · exact busWrite_dropped_of_pulse hpulse n v s
  · refine busWrite_dropped_of_registers (by omega) (fun r hr => ?_) n
    obtain rfl : r = .res := by simpa [hres, regAt] using hr.symm
    rfl
  · refine busWrite_dropped_of_registers (by omega) (fun r hr => ?_) n
    obtain rfl : r = .plen := by simpa [hplen, regAt] using hr.symm
    rfl

end Sys2Proof.Machine
end

section
/-! The two windows (R62 to R64, R67): a read is taken apart into the bytes of a little-endian word, a write into the bytes it
stores and those it drops. -/

namespace Sys2Proof.Machine

/-! ## Little-endian words (R62) -/

/-- Byte `j` of the little-endian value of a list is the list's element `j`, or 0 beyond its end. -/
theorem byte_littleEndian (bs : List Byte) {j : Nat} (hj : j < 4) :
    (littleEndian bs).extractLsb' (8 * j) 8 = bs[j]?.getD 0 := by
  induction bs generalizing j with
  | nil => simp [littleEndian]
  | cons b bs ih =>
    cases j with
    | zero =>
      apply BitVec.eq_of_getLsbD_eq
      intro k hk
      have hin : k < 32 := by omega
      simp [littleEndian, hk, hin]
    | succ j =>
      rw [List.getElem?_cons_succ, ← ih (by omega)]
      apply BitVec.eq_of_getLsbD_eq
      intro k hk
      have hrest : 8 * (j + 1) + k = 8 + (8 * j + k) := by omega
      have hin : 8 + (8 * j + k) < 32 := by omega
      rw [BitVec.getLsbD_extractLsb', BitVec.getLsbD_extractLsb', hrest, littleEndian, BitVec.getLsbD_or,
        BitVec.getLsbD_shiftLeft]
      simp [hin]

/-- The bytes of a read of `n` bytes. -/
theorem byte_littleEndian_range (f : Nat → Byte) (n : Nat) {j : Nat} (hj : j < 4) :
    (littleEndian ((List.range n).map f)).extractLsb' (8 * j) 8 = if j < n then f j else 0 := by
  rw [byte_littleEndian _ hj]
  split <;> simp [*]

/-- Words with the same four bytes are equal. -/
theorem word_eq_of_bytes {x y : Word} (h : ∀ j, j < 4 → x.extractLsb' (8 * j) 8 = y.extractLsb' (8 * j) 8) : x = y := by
  apply BitVec.eq_of_getLsbD_eq
  intro k hk
  have hbit := congrArg (·.getLsbD (k % 8)) (h (k / 8) (by omega))
  simpa [Nat.mod_lt, Nat.div_add_mod] using hbit

/-! ## Reads of the windows (R63, R67) -/

theorem State.busRead_colour {s : State} {o : Offset} {n : Nat} (hlo : 0x010000 ≤ o.toNat) (hhi : o.toNat < 0x020000)
    (hw : wellFormedAccess o.toNat n = true) :
    s.busRead o n = littleEndian ((List.range n).map fun j => s.colourByte (o.toNat - colourBase + j)) := by
  rw [State.busRead, if_pos hw, regionOf_colour hlo hhi]

theorem State.busRead_pulse {s : State} {o : Offset} {n : Nat} (ho : 0x200000 ≤ o.toNat)
    (hw : wellFormedAccess o.toNat n = true) :
    s.busRead o n = littleEndian ((List.range n).map fun j => s.pulseByte (o.toNat - pulseBase + j)) := by
  rw [State.busRead, if_pos hw, regionOf_pulse ho]

/-- Settles O45: byte `j` of the read is the window's byte there. -/
theorem colourWindowReadsLiveBytes : Obligations.ColourWindowReadsLiveBytes := by
  unfold Obligations.ColourWindowReadsLiveBytes
  intro s o n j hlo hhi hw hj
  rw [State.busRead_colour hlo hhi hw, byte_littleEndian_range _ _ hj, State.colourByte, ← ite_and]
  rfl

/-- A pulse-window read, byte by byte (R67). -/
theorem State.byte_busRead_pulse (s : State) {o : Offset} {n j : Nat} (ho : 0x200000 ≤ o.toNat)
    (hw : wellFormedAccess o.toNat n = true) (hj : j < 4) :
    (s.busRead o n).extractLsb' (8 * j) 8 = if j < n then s.pulseByte (o.toNat - 0x200000 + j) else 0 := by
  rw [State.busRead_pulse ho hw, byte_littleEndian_range _ _ hj]
  rfl

/-- Byte `j` of descriptor `k` in the window. -/
theorem State.pulseByte_descriptor (s : State) (k : Nat) {j : Nat} (hj : j < 4) :
    s.pulseByte (4 * k + j) = (if k < s.plen.toNat then s.pbuf.read k else 0).extractLsb' (8 * j) 8 := by
  have hdiv : (4 * k + j) / 4 = k := by omega
  have hmod : (4 * k + j) % 4 = j := by omega
  rw [State.pulseByte, hdiv, hmod]
  split <;> simp

/-- Settles O46: byte `j` of the read is the window's byte there, and four aligned bytes are those of one descriptor. -/
theorem pulseWindowReadsValidDescriptors : Obligations.PulseWindowReadsValidDescriptors := by
  unfold Obligations.PulseWindowReadsValidDescriptors
  constructor
  · rintro s o n j p ho hw hj rfl
    rw [s.byte_busRead_pulse ho hw hj, State.pulseByte, ← ite_and]
  · intro s k hk
    have hoff : (BitVec.ofNat 22 (0x200000 + 4 * k)).toNat = 0x200000 + 4 * k := by
      rw [BitVec.toNat_ofNat]
      omega
    have hw : wellFormedAccess (BitVec.ofNat 22 (0x200000 + 4 * k)).toNat 4 = true := by
      rw [hoff, wellFormedAccess_window (.inr (regionOf_pulse (by omega)))]
      omega
    refine word_eq_of_bytes fun j hj => ?_
    rw [s.byte_busRead_pulse (by omega) hw hj, if_pos hj, hoff, Nat.add_sub_cancel_left, s.pulseByte_descriptor k hj]

/-! ## Writes of the colour window (R64) -/

/-- The bytes of a write of `n` bytes, lowest offset first (R62). -/
def writtenBytes (v : Word) (n : Nat) : List Byte := (List.range n).map fun j => byteOfWord v j

@[simp] theorem length_writtenBytes (v : Word) (n : Nat) : (writtenBytes v n).length = n := by simp [writtenBytes]

theorem getElem_writtenBytes (v : Word) {n j : Nat} (h : j < (writtenBytes v n).length) :
    (writtenBytes v n)[j] = v.extractLsb' (8 * j) 8 := by
  simp [writtenBytes, byteOfWord]

theorem hostAccess_write_colour {o : Offset} {n : Nat} (hlo : 0x010000 ≤ o.toNat) (hhi : o.toNat < 0x020000)
    (hw : wellFormedAccess o.toNat n = true) (v : Word) (s : State) :
    hostAccess (.write o n v) s = .next (s.writeColour (o.toNat - 0x010000) (writtenBytes v n)) := by
  rw [hostAccess, busWrite, if_pos hw, regionOf_colour hlo hhi]
  rfl

/-- An allowed access has at least one byte. -/
theorem pos_of_wellFormedAccess {o n : Nat} (hlo : 0x010000 ≤ o) (hhi : o < 0x020000)
    (hw : wellFormedAccess o n = true) : 0 < n := by
  have := (wellFormedAccess_window (.inl (regionOf_colour hlo hhi))).1 hw
  omega

/-- A byte of a window write below LIVE and while not BUSY is stored (R64). -/
theorem State.read_writeColour_stored {s : State} {a j : Nat} {bs : List Byte} (hj : j < bs.length)
    (hlive : a + j < s.live) (hb : s.busy = false) : (s.writeColour a bs).cbuf.read (a + j) = bs[j] := by
  rw [State.read_writeColour, dif_pos ⟨⟨by omega, by omega⟩, hlive, hb⟩]
  simp

/-- A window write keeps every byte outside it, at or beyond LIVE, or while BUSY (R64). -/
theorem State.read_writeColour_kept {s : State} {a c : Nat} {bs : List Byte}
    (h : c < a ∨ a + bs.length ≤ c ∨ s.live ≤ c ∨ s.busy = true) :
    (s.writeColour a bs).cbuf.read c = s.cbuf.read c := by
  rw [State.read_writeColour, dif_neg]
  rintro ⟨hin, hlive, hb⟩
  obtain h | h | h | h := h
  · omega
  · omega
  · omega
  · simp [hb] at h

/-- Settles O47: the bytes by the reads after a window write, WDROP by its own lemma, the rest by the frame. -/
theorem colourWindowWritesLiveBytes : Obligations.ColourWindowWritesLiveBytes := by
  unfold Obligations.ColourWindowWritesLiveBytes
  intro s o n v hlo hhi hw
  have hpos := pos_of_wellFormedAccess hlo hhi hw
  refine ⟨_, hostAccess_write_colour hlo hhi hw v s, fun j hj hlive hb => ?_, fun a ha => ?_, ?_, ?_⟩
  · have hj : j < (writtenBytes v n).length := by simpa using hj
    rw [State.read_writeColour_stored hj hlive hb, getElem_writtenBytes]
  · exact State.read_writeColour_kept (by simpa using ha)
  · simp [State.wdrop_writeColour, hpos]
  · obtain ⟨m, b, hframe⟩ := s.writeColour_frame (o.toNat - 0x010000) (writtenBytes v n)
    rw [hframe]
    exact ⟨rfl, rfl, rfl, rfl, rfl, rfl, rfl, rfl, rfl⟩

end Sys2Proof.Machine
end

section
/-! What no step does: change the buffers of a transmission (R79), or fault from a state that meets the invariant (R71). -/

namespace Sys2Proof.Machine

/-! ## During a transmission (R79, R244) -/

/-- While BUSY a CMD write writes ERR alone, whatever its word (R261). -/
theorem issue_of_busy {s : State} (h : s.busy = true) (w : Word) : issue w s = .next (s.setErr .busy) := by
  simp [issue, h]

/-- Settles O53: by the cases of a step. A command is refused, a window write stores nothing, and a configuration register
takes no write while configured. -/
theorem transmissionFreezesTheBuffers : Obligations.TransmissionFreezesTheBuffers := by
  unfold Obligations.TransmissionFreezesTheBuffers
  intro s t h ha hc hreset
  have hb (rest : List Input) : (s.setInputs rest).busy = true := s.busy_iff.2 ha
  cases step_result h with
  | staged rest c hu => simp [hu] at hc
  | window rest m b hm => exact ⟨rfl, rfl, hm.busy (hb rest), rfl, hc⟩
  | command rest w i _ hi =>
    have hrefused : step s = .next ((s.setInputs rest).setErr .busy) :=
      (step_cmdWrite hi).trans (issue_of_busy (hb rest) w)
    rw [next_inj (hrefused.symm.trans h)]
    exact ⟨rfl, rfl, rfl, rfl, hc⟩
  | reset rest hi => exact absurd ⟨rest, hi⟩ hreset
  | quiet | dropped | cleared | operands | raised | event => exact ⟨rfl, rfl, rfl, rfl, hc⟩

/-! ## Which steps go on (R71, R275) -/

/-- A command goes on if its effect does where all its checks have passed. -/
theorem command_goesOn {s : State} {cs : List (Bool × Err)} {e : Host.Outcome State Fault Refusal}
    (he : firstFailure cs = none → ∃ t, e = .next t) : ∃ t, command s cs e = .next t := by
  cases hb : s.busy with
  | true => exact ⟨_, command_busy hb cs e⟩
  | false =>
    cases hc : firstFailure cs with
    | some x => exact ⟨_, command_fails hb hc e⟩
    | none =>
      rw [command_passes hb hc]
      exact he hc

section
variable {s : State} (horder : s.stat.configured = true → s.conf.cfg.order.toNat < s.orderCount)
include horder

/-- With a legal ORDER while configured every command goes on. -/
theorem exec_goesOn (i : Instr) : ∃ t, exec i s = .next t := by
  have store (px : List Byte) (n : Nat) (hc : s.stat.configured = true) : ∃ t, serialize s px n = .next t :=
    have ⟨_, _, he⟩ := serialize_completes (horder hc) px n
    ⟨_, he⟩
  have configured {cs : List (Bool × Err)}
      (hc : firstFailure ((!s.stat.configured, .notConfigured) :: cs) = none) : s.stat.configured = true := by
    simpa using firstFailure_eq_none.1 hc (!s.stat.configured, .notConfigured) List.mem_cons_self
  cases i with
  | setRgb n => exact command_goesOn fun hc => store _ n (configured hc)
  | setRgbw n => exact command_goesOn fun hc => store _ n (configured hc)
  | setHsb n => exact command_goesOn fun hc => store _ n (configured hc)
  | configure | release | clear | render | convHsb2rgb | convRgb2rgbwSimple | convRgb2rgbwComplex =>
    exact command_goesOn fun _ => ⟨_, rfl⟩

theorem issue_goesOn (w : Word) : ∃ t, issue w s = .next t := by
  unfold issue
  split
  · exact ⟨_, rfl⟩
  · cases decode w with
    | illegal x => exact ⟨_, rfl⟩
    | instr i => exact exec_goesOn horder i

theorem writeReg_goesOn (r : Reg) (v : Word) : ∃ t, writeReg r v s = .next t := by
  cases r with
  | cmd => exact issue_goesOn horder v
  | cfg | npix | t0h | t0l | t1h | t1l | txcfg | opa | oph | ops | opb | status | res | plen => exact ⟨_, rfl⟩

theorem busWrite_goesOn (o : Offset) (n : Nat) (v : Word) : ∃ t, busWrite o n v s = .next t := by
  unfold busWrite
  split
  · cases regionOf o.toNat with
    | registers =>
      cases regAt o.toNat with
      | none => exact ⟨_, rfl⟩
      | some r => exact writeReg_goesOn horder r v
    | colour | reserved | pulse => exact ⟨_, rfl⟩
  · exact ⟨_, rfl⟩

theorem hostAccess_goesOn (a : Access) : ∃ t, hostAccess a s = .next t := by
  cases a with
  | read o n => exact ⟨_, rfl⟩
  | write o n v => exact busWrite_goesOn horder o n v

end

/-- Settles O57: by the kinds of inputs; the invariant keeps ORDER legal while configured. -/
theorem invariantStatesNeverFault : Obligations.InvariantStatesNeverFault := by
  unfold Obligations.InvariantStatesNeverFault
  intro s hinv
  cases hi : s.env.inputs with
  | nil =>
    rw [step, hi]
    trivial
  | cons i rest =>
    rw [step_cons hi]
    cases i with
    | host a =>
      obtain ⟨t, ht⟩ := hostAccess_goesOn (s := s.setInputs rest) (fun hc => (hinv.config hc).1) a
      rw [consume, ht]
      trivial
    | otherHost a => exact ⟨rfl, a, rest, hi⟩
    | tx e => trivial
    | reset => trivial

end Sys2Proof.Machine
end

section
/-! Command words (30_encoding.md): the decoder by format, its two round trips with the encoder, the illegal words, and how
a command enters as a word of the opcode table or as a CI line of a Host program. -/

namespace Sys2Proof.Machine

/-! ## The formats (R91) -/

/-- A command is of format CN, or of format CI with its index. -/
theorem instr_cn_or_ci (i : Instr) : (∃ c : CnName, i = c.instr) ∨ ∃ (c : CiName) (n : Nat), i = c.instr n := by
  cases i with
  | configure => exact .inl ⟨.configure, rfl⟩
  | release => exact .inl ⟨.release, rfl⟩
  | setRgb n => exact .inr ⟨.setRgb, n, rfl⟩
  | setRgbw n => exact .inr ⟨.setRgbw, n, rfl⟩
  | setHsb n => exact .inr ⟨.setHsb, n, rfl⟩
  | clear => exact .inl ⟨.clear, rfl⟩
  | render => exact .inl ⟨.render, rfl⟩
  | convHsb2rgb => exact .inl ⟨.convHsb2rgb, rfl⟩
  | convRgb2rgbwSimple => exact .inl ⟨.convRgb2rgbwSimple, rfl⟩
  | convRgb2rgbwComplex => exact .inl ⟨.convRgb2rgbwComplex, rfl⟩

@[simp] theorem CnName.wellFormed_instr (c : CnName) : c.instr.wellFormed = true := by cases c <;> rfl

@[simp] theorem CiName.wellFormed_instr (c : CiName) (n : Nat) : (c.instr n).wellFormed = decide (n < 65536) := by
  cases c <;> rfl

@[simp] theorem CnName.indexBits_instr (c : CnName) : indexBits c.instr = 0 := by cases c <;> rfl

@[simp] theorem CiName.indexBits_instr (c : CiName) (n : Nat) : indexBits (c.instr n) = BitVec.ofNat 16 n := by
  cases c <;> rfl

/-- The opcode of a CI command does not depend on its index. -/
theorem CiName.opcode_instr (c : CiName) (m n : Nat) : opcode (c.instr m) = opcode (c.instr n) := by cases c <;> rfl

/-! ## The fields of a word (R90) -/

/-- A word is fixed by OPC, RSV and INDEX. -/
theorem word_eq_of_fields {v w : Word} (hopc : opcField v = opcField w) (hrsv : rsvField v = rsvField w)
    (hindex : indexField v = indexField w) : v = w := by
  rw [word_eq_fields v, word_eq_fields w, hopc, hrsv, hindex]

/-- Bits [23:0] are 0 exactly when RSV and INDEX are. -/
theorem cnField_eq_zero_iff {w : Word} : cnField w = 0 ↔ rsvField w = 0 ∧ indexField w = 0 := by
  rw [cnField_eq, ← BitVec.toNat_inj, BitVec.toNat_append]
  simp [← BitVec.toNat_inj]

/-! ## The decoder by format (R94, R95) -/

theorem decodeCN_eq_instr_iff {w : Word} {i j : Instr} : decodeCN w i = .instr j ↔ cnField w = 0 ∧ i = j := by
  unfold decodeCN
  split <;> simp_all

theorem decodeCI_eq_instr_iff {w : Word} {make : Nat → Instr} {j : Instr} :
    decodeCI w make = .instr j ↔ rsvField w = 0 ∧ make (indexField w).toNat = j := by
  unfold decodeCI
  split <;> simp_all

theorem decodeCN_illegal_iff {w : Word} {i : Instr} : (∃ x, decodeCN w i = .illegal x) ↔ cnField w ≠ 0 := by
  unfold decodeCN
  split <;> simp_all

theorem decodeCI_illegal_iff {w : Word} {make : Nat → Instr} :
    (∃ x, decodeCI w make = .illegal x) ↔ rsvField w ≠ 0 := by
  unfold decodeCI
  split <;> simp_all

/-- The OPC values that R94 lists, as R96 counts them. -/
def listedOpcodes : List Nat := [0x01, 0x02, 0x10, 0x11, 0x12, 0x18, 0x20, 0x30, 0x31, 0x32]

theorem decode_of_cn {w : Word} {c : CnName} (h : opcField w = opcode c.instr) : decode w = decodeCN w c.instr := by
  unfold decode
  rw [h]
  cases c <;> rfl

theorem decode_of_ci {w : Word} {c : CiName} (h : opcField w = opcode (c.instr 0)) : decode w = decodeCI w c.instr := by
  unfold decode
  rw [h]
  cases c <;> rfl

theorem decode_of_notMem_listedOpcodes {w : Word} (h : (opcField w).toNat ∉ listedOpcodes) :
    decode w = .illegal .reservedOpcode := by
  unfold decode
  split
  case h_11 => rfl
  all_goals
    rename_i hopc
    exact absurd (by rw [hopc]; decide) h

/-- OPC is a CN command's, a CI command's, or not listed. -/
theorem opcField_cases (w : Word) :
    (∃ c : CnName, opcField w = opcode c.instr) ∨ (∃ c : CiName, opcField w = opcode (c.instr 0)) ∨
    (opcField w).toNat ∉ listedOpcodes := by
  by_cases hmem : (opcField w).toNat ∈ listedOpcodes
  · simp only [listedOpcodes, List.mem_cons, List.not_mem_nil, or_false] at hmem
    obtain h | h | h | h | h | h | h | h | h | h := hmem
    · exact .inl ⟨.configure, BitVec.eq_of_toNat_eq h⟩
    · exact .inl ⟨.release, BitVec.eq_of_toNat_eq h⟩
    · exact .inr (.inl ⟨.setRgb, BitVec.eq_of_toNat_eq h⟩)
    · exact .inr (.inl ⟨.setRgbw, BitVec.eq_of_toNat_eq h⟩)
    · exact .inr (.inl ⟨.setHsb, BitVec.eq_of_toNat_eq h⟩)
    · exact .inl ⟨.clear, BitVec.eq_of_toNat_eq h⟩
    · exact .inl ⟨.render, BitVec.eq_of_toNat_eq h⟩
    · exact .inl ⟨.convHsb2rgb, BitVec.eq_of_toNat_eq h⟩
    · exact .inl ⟨.convRgb2rgbwSimple, BitVec.eq_of_toNat_eq h⟩
    · exact .inl ⟨.convRgb2rgbwComplex, BitVec.eq_of_toNat_eq h⟩
  · exact .inr (.inr hmem)

/-! ## The round trips (R90, R95) -/

theorem decode_encode {i : Instr} (h : i.wellFormed = true) : decode (encode i) = .instr i := by
  obtain ⟨c, rfl⟩ | ⟨c, n, rfl⟩ := instr_cn_or_ci i
  · have hcn : cnField (encode c.instr) = 0 :=
      cnField_eq_zero_iff.2 ⟨rsvField_encode _, (indexField_encode _).trans c.indexBits_instr⟩
    rw [decode_of_cn (opcField_encode _)]
    exact decodeCN_eq_instr_iff.2 ⟨hcn, rfl⟩
  · have hn : n < 65536 := by simpa using h
    have hindex : (indexField (encode (c.instr n))).toNat = n := by
      rw [indexField_encode, c.indexBits_instr, BitVec.toNat_ofNat, Nat.mod_eq_of_lt hn]
    rw [decode_of_ci ((opcField_encode _).trans (c.opcode_instr n 0))]
    exact decodeCI_eq_instr_iff.2 ⟨rsvField_encode _, congrArg c.instr hindex⟩

/-- Settles O1: the encoder puts OPC, RSV and INDEX where the decoder of the command's format reads them. -/
theorem encodeThenDecodeIsIdentity : Obligations.EncodeThenDecodeIsIdentity := by
  unfold Obligations.EncodeThenDecodeIsIdentity
  exact fun _ => decode_encode

/-- Settles O2: by format; the word and the encoding agree in each field. -/
theorem decodedWordIsItsEncoding : Obligations.DecodedWordIsItsEncoding := by
  unfold Obligations.DecodedWordIsItsEncoding
  intro w i h
  obtain ⟨c, hopc⟩ | ⟨c, hopc⟩ | hopc := opcField_cases w
  · rw [decode_of_cn hopc, decodeCN_eq_instr_iff, cnField_eq_zero_iff] at h
    obtain ⟨⟨hrsv, hindex⟩, rfl⟩ := h
    refine ⟨c.wellFormed_instr, word_eq_of_fields ?_ ?_ ?_⟩
    · rw [opcField_encode, hopc]
    · rw [rsvField_encode, hrsv]
    · rw [indexField_encode, c.indexBits_instr, hindex]
  · rw [decode_of_ci hopc, decodeCI_eq_instr_iff] at h
    obtain ⟨hrsv, rfl⟩ := h
    refine ⟨by simpa using (indexField w).isLt, word_eq_of_fields ?_ ?_ ?_⟩
    · rw [opcField_encode, hopc, c.opcode_instr]
    · rw [rsvField_encode, hrsv]
    · rw [indexField_encode, c.indexBits_instr, BitVec.ofNat_toNat, BitVec.setWidth_eq]
  · simp [decode_of_notMem_listedOpcodes hopc] at h

/-! ## Illegal words (R96) -/

theorem decode_illegal_iff (w : Word) : (∃ x, decode w = .illegal x) ↔
    ((opcField w).toNat ∉ listedOpcodes ∨
     ((opcField w).toNat ∈ [0x10, 0x11, 0x12] ∧ rsvField w ≠ 0) ∨
     ((opcField w).toNat ∈ [0x01, 0x02, 0x18, 0x20, 0x30, 0x31, 0x32] ∧ cnField w ≠ 0)) := by
  obtain ⟨c, hopc⟩ | ⟨c, hopc⟩ | hopc := opcField_cases w
  · rw [decode_of_cn hopc, decodeCN_illegal_iff, hopc]
    cases c <;> simp [CnName.instr, opcode, listedOpcodes]
  · rw [decode_of_ci hopc, decodeCI_illegal_iff, hopc]
    cases c <;> simp [CiName.instr, opcode, listedOpcodes]
  · exact iff_of_true ⟨_, decode_of_notMem_listedOpcodes hopc⟩ (.inl hopc)

/-- An illegal word issued while BUSY = 0 writes ERR alone. -/
theorem issue_illegal {w : Word} {x : Illegal} {s : State} (h : decode w = .illegal x) (hb : s.busy = false) :
    issue w s = .next (s.setErr .illegal) := by
  simp [issue, h, hb]

/-- Settles O4: the illegal words by format; a CMD write of one issues it. -/
theorem illegalWordsAreThoseNamed : Obligations.IllegalWordsAreThoseNamed := by
  unfold Obligations.IllegalWordsAreThoseNamed
  refine ⟨decode_illegal_iff, by decide +kernel, ⟨.reservedOpcode, by decide⟩, fun w x s h hb => ?_⟩
  exact (hostAccess_write_reg s .cmd w).trans (issue_illegal h hb)

/-- Settles O3: fixed words, evaluated. -/
theorem workedEncodings : Obligations.WorkedEncodings := by
  unfold Obligations.WorkedEncodings
  decide

/-! ## A CI line of a Host program (R98) -/

@[simp] theorem wordOfInt_natCast (n : Nat) : wordOfInt (n : Int) = BitVec.ofNat 32 n := BitVec.ofInt_natCast 32 n

/-- A CI word is the word for index 0 with the index in its low half. -/
theorem encode_ci_eq_or (c : CiName) {n : Nat} (hn : n < 65536) :
    encode (c.instr n) = encode (c.instr 0) ||| BitVec.ofNat 32 n := by
  have hword : BitVec.ofNat 32 n = (0#16 ++ BitVec.ofNat 16 n : Word) := by
    apply BitVec.eq_of_toNat_eq
    rw [BitVec.toNat_append]
    simp
    omega
  rw [hword, encode, encode, BitVec.or_append, c.opcode_instr n 0, c.indexBits_instr, c.indexBits_instr]
  simp

/-- The one access of a CI line writes the command's word to CMD. -/
theorem access_ci {c : CiName} {e : Expr} {n : Nat} {vars : Vars} (he : e.eval vars = some (n : Int)) (hn : n < 65536) :
    (Basic.wr 4 .cmd (.or (.lit ((encode (c.instr 0)).toNat : Int)) (.index e))).access vars =
      some (.write Reg.cmd.offset 4 (encode (c.instr n))) := by
  have hindex : (Expr.index e).eval vars = some (n : Int) := by
    rw [Expr.eval, he, Option.bind_some, if_pos (by omega)]
  have hword : (Expr.or (.lit ((encode (c.instr 0)).toNat : Int)) (.index e)).eval vars =
      some ((encode (c.instr n)).toNat : Int) := by
    rw [Expr.eval, hindex, encode_ci_eq_or c hn]
    simp [Expr.eval]
  rw [Basic.access, hword]
  simp

/-- Settles O60: the line writes the encoding of its command to CMD, which decodes to the command. -/
theorem ciLineIssuesItsCommand : Obligations.CiLineIssuesItsCommand := by
  unfold Obligations.CiLineIssuesItsCommand
  intro c e n s vars he hn
  have hd : decode (encode (c.instr n)) = .instr (c.instr n) := decode_encode (by simpa using hn)
  exact ⟨_, rfl, _, access_ci he hn, (hostAccess_write_reg s .cmd _).trans (issue_instr hd s)⟩

/-! ## A word of the opcode table (R90, R95) -/

/-- A table word decodes to what its 32-bit word does: its four bytes make it again. -/
theorem decode_of_decodeTableWord {nbits w : Nat} {i : Instr} (h : decodeTableWord nbits w = some i) :
    decode (BitVec.ofNat 32 (w % 2 ^ nbits)) = .instr i := by
  unfold decodeTableWord at h
  rw [bytesOfWord, decodeBytes, wordOfBytes_bytesOfWord] at h
  cases hd : decode (BitVec.ofNat 32 (w % 2 ^ nbits)) with
  | instr j => simpa [hd] using h
  | illegal x => simp [hd] at h

/-- Settles O6: the placed CMD write is the next input, and taking it leaves the state as it was. -/
theorem placedWordRunsNext : Obligations.PlacedWordRunsNext := by
  unfold Obligations.PlacedWordRunsNext
  intro s nbits w i h
  exact (step_cmdWrite (s := s.withFetchWord nbits w) rfl).trans (issue_instr (decode_of_decodeTableWord h) s)

end Sys2Proof.Machine
end

section
/-! HsbToRgb (40_color_conversion.md R122 to R127): what truncating, rounding and saturating give (R12), and the converter
branch by branch, with its table by sector. -/

namespace Sys2Proof.Machine

/-! ## Rounding and saturation (R12) -/

/-- The model's floor is Mathlib's. -/
theorem ratFloor_eq (x : ℚ) : Rat.floor x = ⌊x⌋ := rfl

theorem trunc_of_nonneg {x : ℚ} (h : 0 ≤ x) : trunc x = ⌊x⌋ := by
  rw [trunc, Int.tdiv_eq_ediv_of_nonneg (Rat.num_nonneg.2 h), Rat.floor_def']

/-- trunc is odd, as a rounding toward zero is. -/
theorem trunc_neg (x : ℚ) : trunc (-x) = -trunc x := by
  simp [trunc]

theorem trunc_of_nonpos {x : ℚ} (h : x ≤ 0) : trunc x = ⌈x⌉ := by
  rw [← neg_neg x, trunc_neg, trunc_of_nonneg (neg_nonneg.2 h), Int.ceil_neg]

theorem roundHA_of_nonneg {x : ℚ} (h : 0 ≤ x) : roundHA x = ⌊x + 1 / 2⌋ := by
  rw [roundHA, if_pos h, ratFloor_eq]

theorem roundHA_of_neg {x : ℚ} (h : x < 0) : roundHA x = ⌈x - 1 / 2⌉ := by
  rw [roundHA, if_neg (not_le.2 h), ratFloor_eq, ← Int.ceil_neg, neg_add, neg_neg, ← sub_eq_add_neg]

theorem roundHA_of_nonpos {x : ℚ} (h : x ≤ 0) : roundHA x = ⌈x - 1 / 2⌉ := by
  obtain hneg | rfl := h.lt_or_eq
  · exact roundHA_of_neg hneg
  · decide +kernel

theorem sat8_of_neg {n : Int} (h : n < 0) : sat8 n = 0 := if_pos h

theorem sat8_of_gt {n : Int} (h : 255 < n) : sat8 n = 255 := by
  rw [sat8, if_neg (by omega), if_pos h]

/-- In range sat8 keeps its argument. -/
theorem toNat_sat8 {n : Int} (h0 : 0 ≤ n) (h255 : n ≤ 255) : ((sat8 n).toNat : Int) = n := by
  rw [sat8, if_neg (by omega), if_neg (by omega), BitVec.toNat_ofInt]
  omega

/-- A component of 0 to 1 scales to 0 to 255 and truncates within it (R127). -/
theorem trunc_scaled_mem {x : ℚ} (h : x ∈ Set.Icc (0 : ℚ) 1) : 0 ≤ trunc (x * 255) ∧ trunc (x * 255) ≤ 255 := by
  obtain ⟨h0, h1⟩ := h
  rw [trunc_of_nonneg (by linarith)]
  exact ⟨Int.floor_nonneg.2 (by linarith), Int.floor_le_iff.2 (by push_cast; linarith)⟩

/-- A brightness of 0 to 1 scales to 0 to 255 and rounds within it (R127). -/
theorem roundHA_scaled_mem {x : ℚ} (h : x ∈ Set.Icc (0 : ℚ) 1) :
    0 ≤ roundHA (x * 255) ∧ roundHA (x * 255) ≤ 255 := by
  obtain ⟨h0, h1⟩ := h
  rw [roundHA_of_nonneg (by linarith)]
  exact ⟨Int.floor_nonneg.2 (by linarith), Int.floor_le_iff.2 (by push_cast; linarith)⟩

/-! ## HsbToRgb (R122 to R127) -/

/-- The sector table of R122, with `p`, `q` and `t` as its text names them. -/
def sectorColour (i : Int) (v p q t : ℚ) : Rgb :=
  if i = 0 then ⟨component v, component t, component p⟩
  else if i = 1 then ⟨component q, component v, component p⟩
  else if i = 2 then ⟨component p, component v, component t⟩
  else if i = 3 then ⟨component p, component q, component v⟩
  else if i = 4 then ⟨component t, component p, component v⟩
  else ⟨component v, component p, component q⟩

/-- Without saturation all three channels are the rounded brightness, whatever the hue (R123, R126). -/
theorem hsbToRgb_of_saturation_nonpos {s : ℚ} (hs : s ≤ 0) (h v : ℚ) :
    hsbToRgb h s v = ⟨sat8 (roundHA (v * 255)), sat8 (roundHA (v * 255)), sat8 (roundHA (v * 255))⟩ := by
  rw [hsbToRgb, if_pos hs]

/-- With saturation a hue below 360 selects its row of the sector table (R122, R124). -/
theorem hsbToRgb_of_hue_lt {h s : ℚ} (hs : 0 < s) (hh : h < 360) (v : ℚ) :
    hsbToRgb h s v = sectorColour ⌊h / 60⌋ v (v * (1 - s)) (v * (1 - s * Int.fract (h / 60)))
      (v * (1 - s * (1 - Int.fract (h / 60)))) := by
  simp only [hsbToRgb, if_neg (not_le.2 hs), if_neg (not_le.2 hh)]
  rfl

/-- Hue normalisation: 360 and more act as 0 (R123). -/
theorem hsbToRgb_of_le_hue {h : ℚ} (hh : 360 ≤ h) (s v : ℚ) : hsbToRgb h s v = hsbToRgb 0 s v := by
  simp [hsbToRgb, hh]

/-- The sector of a hue. -/
theorem floor_div_sixty {h : ℚ} (i : Int) (hlo : 60 * i ≤ h) (hhi : h < 60 * (i + 1)) : ⌊h / 60⌋ = i :=
  Int.floor_eq_iff.2 ⟨by linarith, by linarith⟩

/-- A hue in none of the sectors 0 to 4 selects the last row. -/
theorem sectorColour_otherwise {i : Int} (h : i < 0 ∨ 4 < i) (v p q t : ℚ) :
    sectorColour i v p q t = ⟨component v, component p, component q⟩ := by
  unfold sectorColour
  rw [if_neg (by omega), if_neg (by omega), if_neg (by omega), if_neg (by omega), if_neg (by omega)]

/-- Settles O26: by the normalisation, and by the achromatic branch, which does not read the hue. -/
theorem largeHueActsAsZero : Obligations.LargeHueActsAsZero := by
  unfold Obligations.LargeHueActsAsZero
  refine ⟨fun h s v hh => hsbToRgb_of_le_hue hh s v, fun h k s v hs => ?_⟩
  rw [hsbToRgb_of_saturation_nonpos hs, hsbToRgb_of_saturation_nonpos hs]

/-- What a component is, by where its truncated product lies (R122, R125). -/
theorem component_saturates (x : ℚ) :
    (trunc (x * 255) < 0 → component x = 0) ∧ (255 < trunc (x * 255) → component x = 255) ∧
    (0 ≤ trunc (x * 255) → trunc (x * 255) ≤ 255 → ((component x).toNat : Int) = trunc (x * 255)) :=
  ⟨sat8_of_neg, sat8_of_gt, toNat_sat8⟩

/-- Settles O25: the sector of each range of hues selects its row of the table. -/
theorem hueSectorSelectsComponents : Obligations.HueSectorSelectsComponents := by
  unfold Obligations.HueSectorSelectsComponents
  refine ⟨?_, component_saturates, ?_, ?_⟩
  · rintro h s v hs hh ff rfl p q t rfl rfl rfl
    have row {i : Int} (hi : ⌊h / 60⌋ = i) := hi ▸ hsbToRgb_of_hue_lt hs hh v
    have otherwise (hi : ⌊h / 60⌋ < 0 ∨ 4 < ⌊h / 60⌋) :=
      (hsbToRgb_of_hue_lt hs hh v).trans (sectorColour_otherwise hi ..)
    refine ⟨fun hlo hhi => row (floor_div_sixty 0 ?_ ?_), fun hlo hhi => row (floor_div_sixty 1 ?_ ?_),
      fun hlo hhi => row (floor_div_sixty 2 ?_ ?_), fun hlo hhi => row (floor_div_sixty 3 ?_ ?_),
      fun hlo hhi => row (floor_div_sixty 4 ?_ ?_), fun hlo => otherwise (.inr (Int.le_floor.2 ?_)),
      fun hneg => otherwise (.inl (Int.floor_lt.2 ?_))⟩
    all_goals
      push_cast
      linarith
  · intro h s v hs
    exact ⟨_, hsbToRgb_of_saturation_nonpos hs h v, sat8_of_neg, sat8_of_gt, toNat_sat8⟩
  · exact fun x => ⟨fun hx => ⟨trunc_of_nonneg hx, roundHA_of_nonneg hx⟩,
      fun hx => ⟨trunc_of_nonpos hx, roundHA_of_nonpos hx⟩⟩

/-- The numbers from 0 to 1 are closed under products. -/
theorem mul_mem_Icc {x y : ℚ} (hx : x ∈ Set.Icc (0 : ℚ) 1) (hy : y ∈ Set.Icc (0 : ℚ) 1) :
    x * y ∈ Set.Icc (0 : ℚ) 1 :=
  ((⟨x, hx⟩ : Set.Icc (0 : ℚ) 1) * ⟨y, hy⟩).2

/-- In range every entry of the sector table lies in 0 to 1 (R127). -/
theorem sectorEntry_mem {s v f x : ℚ} (hs : s ∈ Set.Icc (0 : ℚ) 1) (hv : v ∈ Set.Icc (0 : ℚ) 1)
    (hf : f ∈ Set.Icc (0 : ℚ) 1)
    (hx : x = v ∨ x = v * (1 - s) ∨ x = v * (1 - s * f) ∨ x = v * (1 - s * (1 - f))) : x ∈ Set.Icc (0 : ℚ) 1 := by
  have scaled {y : ℚ} (hy : y ∈ Set.Icc (0 : ℚ) 1) : v * (1 - y) ∈ Set.Icc (0 : ℚ) 1 :=
    mul_mem_Icc hv (Set.Icc.one_sub_mem hy)
  obtain rfl | rfl | rfl | rfl := hx
  · exact hv
  · exact scaled hs
  · exact scaled (mul_mem_Icc hs hf)
  · exact scaled (mul_mem_Icc hs (Set.Icc.one_sub_mem hf))

/-- Settles O24: what is scaled lies in 0 to 1, so sat8 keeps the truncated or rounded product; the six hues are
evaluated. -/
theorem inRangeHsbIsNotClamped : Obligations.InRangeHsbIsNotClamped := by
  unfold Obligations.InRangeHsbIsNotClamped
  refine ⟨fun h s v hs0 hs1 hv0 hv1 _ _ => ⟨fun hs => ?_, ?_⟩, by decide +kernel⟩
  · obtain ⟨hlo, hhi⟩ := roundHA_scaled_mem ⟨hv0, hv1⟩
    rw [hsbToRgb_of_saturation_nonpos hs.le]
    exact ⟨hlo, hhi, toNat_sat8 hlo hhi, toNat_sat8 hlo hhi, toNat_sat8 hlo hhi⟩
  · rintro - ff rfl x hx
    have hfract : Int.fract (h / 60) ∈ Set.Icc (0 : ℚ) 1 := ⟨Int.fract_nonneg _, (Int.fract_lt_one _).le⟩
    obtain ⟨hlo, hhi⟩ := trunc_scaled_mem (sectorEntry_mem ⟨hs0, hs1⟩ ⟨hv0, hv1⟩ hfract hx)
    exact ⟨hlo, hhi, toNat_sat8 hlo hhi⟩

end Sys2Proof.Machine
end

section
/-! The RGB to RGBW converters (40_color_conversion.md R130 to R133): white is the least channel, and the luminance of the
Complex converter is white. -/

namespace Sys2Proof.Machine

/-! ## Bytes and their rational values -/

@[simp] theorem toNat_minByte (a b : Byte) : (minByte a b).toNat = min a.toNat b.toNat := by
  rw [minByte, apply_ite BitVec.toNat, min_def]

@[simp] theorem toNat_maxByte (a b : Byte) : (maxByte a b).toNat = max a.toNat b.toNat := by
  rw [maxByte, apply_ite BitVec.toNat, max_def]

theorem byteQ_mul_le_iff {k : ℚ} (hk : 0 < k) (a b : Byte) : byteQ a * k ≤ byteQ b * k ↔ a.toNat ≤ b.toNat := by
  rw [mul_le_mul_iff_left₀ hk, byteQ, byteQ, Nat.cast_le]

/-- Scaling keeps the larger channel the larger. -/
theorem maxQ_byteQ_mul {k : ℚ} (hk : 0 < k) (a b : Byte) :
    maxQ (byteQ a * k) (byteQ b * k) = byteQ (maxByte a b) * k := by
  unfold maxQ maxByte
  simp only [byteQ_mul_le_iff hk]
  split <;> rfl

/-- Scaling keeps the smaller channel the smaller. -/
theorem minQ_byteQ_mul {k : ℚ} (hk : 0 < k) (a b : Byte) :
    minQ (byteQ a * k) (byteQ b * k) = byteQ (minByte a b) * k := by
  unfold minQ minByte
  simp only [byteQ_mul_le_iff hk]
  split <;> rfl

/-- Truncating and saturating keep the value of a byte. -/
theorem sat8_trunc_byteQ (b : Byte) : sat8 (trunc (byteQ b)) = b := by
  have hb := b.isLt
  have htrunc : trunc (byteQ b) = b.toNat := by simp [trunc, byteQ]
  have hsat := toNat_sat8 (n := b.toNat) (by omega) (by omega)
  rw [htrunc]
  exact BitVec.eq_of_toNat_eq (by exact_mod_cast hsat)

/-- A difference of channels that does not go below 0 is exact, so truncating and saturating keep it (R133). -/
theorem sat8_trunc_byteQ_sub {a b : Byte} (h : b ≤ a) : sat8 (trunc (byteQ a - byteQ b)) = a - b := by
  have hsub : byteQ a - byteQ b = byteQ (a - b) := by
    rw [byteQ, byteQ, byteQ, BitVec.toNat_sub_of_le h, Nat.cast_sub h]
  rw [hsub, sat8_trunc_byteQ]

/-! ## The Simple converter (R130) -/

theorem toNat_white_simple (p : Rgb) :
    (rgbToRgbwSimple p).white.toNat = min (min p.red.toNat p.green.toNat) p.blue.toNat := by
  simp [rgbToRgbwSimple]

/-- White is at most each channel. -/
theorem white_simple_le (p : Rgb) : (rgbToRgbwSimple p).white ≤ p.red ∧ (rgbToRgbwSimple p).white ≤ p.green ∧
    (rgbToRgbwSimple p).white ≤ p.blue := by
  simp [BitVec.le_def, toNat_white_simple]

/-- Taking away at most a byte from it, and adding it again. -/
theorem toNat_sub_add_toNat {a b : Byte} (h : b ≤ a) : (a - b).toNat + b.toNat = a.toNat := by
  rw [BitVec.toNat_sub_of_le h]
  exact Nat.sub_add_cancel h

/-- Settles O23: white is at most each channel. -/
theorem simpleConverterSubtractsWhite : Obligations.SimpleConverterSubtractsWhite := by
  unfold Obligations.SimpleConverterSubtractsWhite
  intro p
  obtain ⟨hred, hgreen, hblue⟩ := white_simple_le p
  exact ⟨toNat_white_simple p, toNat_sub_add_toNat hred, toNat_sub_add_toNat hgreen, toNat_sub_add_toNat hblue⟩

/-! ## The Complex converter (R131, R132) -/

/-- The largest channel of a pixel, `mx` of R131. -/
def Rgb.largest (p : Rgb) : Byte := maxByte (maxByte p.red p.green) p.blue

/-- A pixel whose largest channel is 0 is black. -/
theorem eq_black_of_largest_eq_zero {p : Rgb} (h : p.largest = 0) : p = ⟨0, 0, 0⟩ := by
  have hmax : max (max p.red.toNat p.green.toNat) p.blue.toNat = 0 := by
    simpa [Rgb.largest] using congrArg BitVec.toNat h
  obtain ⟨red, green, blue⟩ := p
  simp_all [← BitVec.toNat_inj]

theorem maxQ_scaled {k : ℚ} (hk : 0 < k) (p : Rgb) :
    maxQ (maxQ (byteQ p.red * k) (byteQ p.green * k)) (byteQ p.blue * k) = byteQ p.largest * k := by
  rw [maxQ_byteQ_mul hk, maxQ_byteQ_mul hk, Rgb.largest]

theorem minQ_scaled {k : ℚ} (hk : 0 < k) (p : Rgb) :
    minQ (minQ (byteQ p.red * k) (byteQ p.green * k)) (byteQ p.blue * k) = byteQ (rgbToRgbwSimple p).white * k := by
  rw [minQ_byteQ_mul hk, minQ_byteQ_mul hk, rgbToRgbwSimple]

/-- The luminance is white: the largest scaled channel is 255, so the remap leaves the least channel (R132). -/
theorem complexLuminance_eq_white {p : Rgb} (h : p.largest ≠ 0) :
    complexLuminance p p.largest = byteQ (rgbToRgbwSimple p).white := by
  have hmx : 0 < byteQ p.largest := by
    rw [byteQ, Nat.cast_pos, Nat.pos_iff_ne_zero]
    exact fun h0 => h (BitVec.eq_of_toNat_eq h0)
  have hmult : 0 < 255 / byteQ p.largest := by positivity
  rw [complexLuminance, maxQ_scaled hmult, minQ_scaled hmult]
  field_simp
  ring

/-- A pixel with a channel that is not 0 (R131). -/
theorem rgbToRgbwComplex_of_largest_ne_zero {p : Rgb} (h : p.largest ≠ 0) :
    rgbToRgbwComplex p =
      ⟨sat8 (trunc (byteQ p.red - complexLuminance p p.largest)),
        sat8 (trunc (byteQ p.green - complexLuminance p p.largest)),
        sat8 (trunc (byteQ p.blue - complexLuminance p p.largest)),
        sat8 (trunc (complexLuminance p p.largest))⟩ :=
  if_neg h

/-- Settles O22: both send black to black; else the luminance is white, and taking it from a channel is exact. -/
theorem complexConverterEqualsSimple : Obligations.ComplexConverterEqualsSimple := by
  unfold Obligations.ComplexConverterEqualsSimple
  intro p
  by_cases h : p.largest = 0
  · rw [eq_black_of_largest_eq_zero h]
    rfl
  · obtain ⟨hred, hgreen, hblue⟩ := white_simple_le p
    rw [rgbToRgbwComplex_of_largest_ne_zero h, complexLuminance_eq_white h, sat8_trunc_byteQ_sub hred,
      sat8_trunc_byteQ_sub hgreen, sat8_trunc_byteQ_sub hblue, sat8_trunc_byteQ]
    rfl

end Sys2Proof.Machine
end

section
/-! The CONV commands (40_color_conversion.md R120, R121, R140 to R142): the values of the HSB operands, and the packed
colour that each command writes to RES. -/

namespace Sys2Proof.Machine

/-! ## binary32 patterns (R120) -/

theorem pow2_eq_zpow (k : Int) : pow2 k = (2 : ℚ) ^ k := by
  cases k with
  | ofNat n => simp [pow2]
  | negSucc n => simp [pow2, zpow_negSucc]

/-- The sign of a pattern as R120 writes it. -/
theorem f32sign_eq (w : Word) : (if f32sign w then (-1 : ℚ) else 1) = (-1) ^ (w.getLsbD 31).toNat := by
  unfold f32sign
  cases w.getLsbD 31 <;> simp

theorem f32val_of_nonfinite {w : Word} (h : f32exp w = 255) : f32val w = none := by
  simp [f32val, h]

theorem f32val_of_subnormal {w : Word} (h : f32exp w = 0) :
    f32val w = some ((-1 : ℚ) ^ (w.getLsbD 31).toNat * (f32frac w : ℚ) * (2 : ℚ) ^ (-149 : ℤ)) := by
  simp [f32val, h, f32sign_eq, pow2_eq_zpow]

theorem f32val_of_normal {w : Word} (h0 : 0 < f32exp w) (h255 : f32exp w < 255) :
    f32val w = some ((-1 : ℚ) ^ (w.getLsbD 31).toNat * (2 ^ 23 + (f32frac w : ℚ)) *
      (2 : ℚ) ^ ((f32exp w : ℤ) - 150)) := by
  norm_num [f32val, h0.ne', h255.ne, f32sign_eq, pow2_eq_zpow]

/-! ## The operand of HSB -/

theorem State.hsbOperand_of_finite {s : State} {h x v : ℚ} (hh : f32val s.opnd.oph = some h)
    (hx : f32val s.opnd.ops = some x) (hv : f32val s.opnd.opb = some v) : s.hsbOperand = hsbToRgb h x v := by
  simp [State.hsbOperand, hsbPatternsToRgb, hh, hx, hv]

/-- Any non-finite operand gives black (R121). -/
theorem State.hsbOperand_of_nonfinite {s : State}
    (h : f32val s.opnd.oph = none ∨ f32val s.opnd.ops = none ∨ f32val s.opnd.opb = none) :
    s.hsbOperand = ⟨0, 0, 0⟩ := by
  unfold State.hsbOperand hsbPatternsToRgb
  split
  · simp_all
  · rfl

/-! ## Packed colours (R93) -/

/-- {a, b, c, d} read field by field. -/
theorem fields_append (a b c d : Byte) :
    (a ++ b ++ c ++ d).extractLsb' 24 8 = a ∧ (a ++ b ++ c ++ d).extractLsb' 16 8 = b ∧
    (a ++ b ++ c ++ d).extractLsb' 8 8 = c ∧ (a ++ b ++ c ++ d).extractLsb' 0 8 = d := by
  have skip {n i : Nat} (x : BitVec n) (y : Byte) : (x ++ y).extractLsb' (8 + i) 8 = x.extractLsb' i 8 := by
    simp [BitVec.extractLsb'_append_eq_ite]
  exact ⟨(skip _ d).trans ((skip _ c).trans BitVec.extractLsb'_append_eq_left),
    (skip _ d).trans ((skip _ c).trans BitVec.extractLsb'_append_eq_right),
    (skip _ d).trans BitVec.extractLsb'_append_eq_right, BitVec.extractLsb'_append_eq_right⟩

theorem packRgbw_fields (p : Rgbw) :
    (packRgbw p).extractLsb' 24 8 = p.white ∧ (packRgbw p).extractLsb' 16 8 = p.red ∧
    (packRgbw p).extractLsb' 8 8 = p.green ∧ (packRgbw p).extractLsb' 0 8 = p.blue := fields_append ..

theorem packRgb_fields (p : Rgb) :
    (packRgb p).extractLsb' 24 8 = 0 ∧ (packRgb p).extractLsb' 16 8 = p.red ∧
    (packRgb p).extractLsb' 8 8 = p.green ∧ (packRgb p).extractLsb' 0 8 = p.blue := fields_append ..

/-! ## The CONV commands (R140 to R142) -/

theorem onlyResultChanges_setRes (s : State) (v : Word) : OnlyResultChanges s (s.setRes v).succeed :=
  ⟨rfl, rfl, rfl, rfl, rfl, rfl, rfl, rfl, rfl⟩

/-- Settles O28: both commands write a packed colour to RES. -/
theorem convRgbwWritesResult : Obligations.ConvRgbwWritesResult := by
  unfold Obligations.ConvRgbwWritesResult
  rintro s p hb rfl
  exact ⟨⟨_, command_passes hb firstFailure_nil _, rfl, onlyResultChanges_setRes s _, packRgbw_fields _⟩,
    ⟨_, command_passes hb firstFailure_nil _, rfl, onlyResultChanges_setRes s _, packRgbw_fields _⟩⟩

/-- Settles O27: the patterns by their exponent; the command writes the packed HSB operand to RES. -/
theorem convHsbWritesResult : Obligations.ConvHsbWritesResult := by
  unfold Obligations.ConvHsbWritesResult
  refine ⟨fun w => ⟨f32val_of_nonfinite, f32val_of_subnormal, f32val_of_normal⟩, fun s hb => ?_⟩
  obtain ⟨hzero, hcolour⟩ := packRgb_fields s.hsbOperand
  refine ⟨_, command_passes hb firstFailure_nil _, rfl, onlyResultChanges_setRes s _, hzero,
    fun h x v hh hx hv => ?_, fun hnone => ?_⟩
  · rw [← State.hsbOperand_of_finite hh hx hv]
    exact hcolour
  · change packRgb s.hsbOperand = 0
    rw [State.hsbOperand_of_nonfinite hnone]
    rfl

end Sys2Proof.Machine
end

section
/-! SUPPORT. The serializer (41_serializer.md): the reading back of a pixel, and the order tables as permutations. -/

namespace Sys2Proof.Machine

/-! ## Reading a pixel back -/

/-- Where `serialize` has put a channel (R155, R156). -/
theorem serialize_read {s t : State} {px : List Byte} {i : Nat} (h : serialize s px i = .next t) {c : Channel} {o : Nat}
    {v : Byte} (ho : off s.conf.cfg.ch4 s.conf.cfg.order c = some o) (hv : px[c.column]? = some v) :
    t.cbuf.read (i * s.ch + o) = v := by
  obtain ⟨row, hrow, rfl⟩ := serialize_cases h
  obtain ⟨row', hrow', hcol⟩ := off_eq_some.1 ho
  obtain rfl : row = row' := Option.some.inj (hrow.symm.trans hrow')
  exact read_writeChannels_in s.cbuf _ (orderRow_spec hrow).2.1 hcol hv

/-- Settles O21: a row's offsets are distinct, so no later channel overwrites an earlier one. -/
theorem serializedPixelReadsBack : Obligations.SerializedPixelReadsBack := by
  unfold Obligations.SerializedPixelReadsBack
  intro s t px i h
  refine ⟨fun c o v => serialize_read h, fun p hpx hch4 horder => ?_⟩
  have hch : i * s.ch = 3 * i := by simp [State.ch, hch4, Nat.mul_comm]
  have hoff (c : Channel) : off s.conf.cfg.ch4 s.conf.cfg.order c = off false 0 c := by rw [hch4, horder]
  subst hpx
  exact hch ▸ ⟨serialize_read h (hoff .red) rfl, serialize_read h (hoff .green) rfl, serialize_read h (hoff .blue) rfl⟩

/-! ## Channels and columns -/

theorem Channel.column_injective : Function.Injective Channel.column := by
  intro c d
  cases c <;> cases d <;> simp [Channel.column]

theorem Channel.exists_column_eq {k : Nat} (h : k < 4) : ∃ c : Channel, c.column = k := by
  match k, h with
  | 0, _ => exact ⟨.red, rfl⟩
  | 1, _ => exact ⟨.green, rfl⟩
  | 2, _ => exact ⟨.blue, rfl⟩
  | 3, _ => exact ⟨.white, rfl⟩

/-- The channels of a strip are those with a column in its table: white on an RGBW strip alone (R150). -/
theorem Channel.column_lt_iff (ch4 : Bool) (c : Channel) :
    c.column < (if ch4 then 4 else 3) ↔ (ch4 = false → c ≠ .white) := by
  cases ch4 <;> cases c <;> simp [Channel.column]

/-! ## The rows of the order tables (R151, R152) -/

theorem exists_orderRow {ch4 : Bool} {order : BitVec 5} (h : order.toNat < (if ch4 then 24 else 6)) :
    ∃ row, orderRow ch4 order = some row := by
  have hlen : (if ch4 then rgbwOrders else rgbOrders).length = (if ch4 then 24 else 6) := by cases ch4 <;> rfl
  exact ⟨_, List.getElem?_eq_getElem (hlen ▸ h)⟩

/-- Each table row is a different permutation (R153). -/
theorem orderRow_injective {ch4 : Bool} {o q : BitVec 5} {row : List Nat} (ho : orderRow ch4 o = some row)
    (hq : orderRow ch4 q = some row) : o = q := by
  have hnodup : (if ch4 then rgbwOrders else rgbOrders).Nodup := by cases ch4 <;> decide
  obtain ⟨hlt, -⟩ := List.getElem?_eq_some_iff.1 ho
  exact BitVec.eq_of_toNat_eq ((List.getElem?_inj hlt hnodup).1 (ho.trans hq.symm))

/-- CH distinct offsets below CH are all of them (R154). -/
theorem mem_orderRow_iff {ch4 : Bool} {order : BitVec 5} {row : List Nat} (h : orderRow ch4 order = some row) (k : Nat) :
    k ∈ row ↔ k < (if ch4 then 4 else 3) := by
  obtain ⟨hlen, hnodup, hlt⟩ := orderRow_spec h
  have hsub : row ⊆ List.range row.length := fun o ho => List.mem_range.2 (hlt o ho)
  have hperm : row.Perm (List.range row.length) := (hnodup.subperm hsub).perm_of_length_le (by simp)
  rw [hperm.mem_iff, List.mem_range, hlen]

theorem length_orderRow_le {ch4 : Bool} {order : BitVec 5} {row : List Nat} (h : orderRow ch4 order = some row) :
    row.length ≤ 4 := by
  rw [(orderRow_spec h).1]
  split <;> omega

/-! ## The offsets of a row (R154) -/

section
variable {ch4 : Bool} {order : BitVec 5} {row : List Nat} (h : orderRow ch4 order = some row)
include h

theorem off_eq_getElem? (c : Channel) : off ch4 order c = row[c.column]? := by
  simp [off, h]

theorem off_ne_none_iff (c : Channel) : off ch4 order c ≠ none ↔ (ch4 = false → c ≠ .white) := by
  rw [off_eq_getElem? h, ne_eq, List.getElem?_eq_none_iff, not_le, (orderRow_spec h).1, Channel.column_lt_iff]

theorem off_lt {c : Channel} {k : Nat} (hk : off ch4 order c = some k) : k < (if ch4 then 4 else 3) :=
  (mem_orderRow_iff h k).1 (List.mem_of_getElem? (off_eq_getElem? h c ▸ hk))

theorem off_injective {c d : Channel} {k : Nat} (hc : off ch4 order c = some k) (hd : off ch4 order d = some k) :
    c = d := by
  rw [off_eq_getElem? h] at hc hd
  obtain ⟨hlt, -⟩ := List.getElem?_eq_some_iff.1 hc
  exact Channel.column_injective ((List.getElem?_inj hlt (orderRow_spec h).2.1).1 (hc.trans hd.symm))

theorem exists_off_eq {k : Nat} (hk : k < (if ch4 then 4 else 3)) : ∃ c, off ch4 order c = some k := by
  obtain ⟨j, hlt, hj⟩ := List.mem_iff_getElem.1 ((mem_orderRow_iff h k).2 hk)
  obtain ⟨c, rfl⟩ := Channel.exists_column_eq (hlt.trans_le (length_orderRow_le h))
  exact ⟨c, by rw [off_eq_getElem? h, List.getElem?_eq_getElem hlt, hj]⟩

/-- A row is its offsets. -/
theorem orderRow_eq_of_off_eq {q : BitVec 5} {row' : List Nat} (hq : orderRow ch4 q = some row')
    (hoff : ∀ c, off ch4 order c = off ch4 q c) : row = row' := by
  have hlen : row.length = row'.length := (orderRow_spec h).1.trans (orderRow_spec hq).1.symm
  refine List.ext_getElem? fun j => ?_
  by_cases hj : j < 4
  · obtain ⟨c, rfl⟩ := Channel.exists_column_eq hj
    rw [← off_eq_getElem? h, hoff, off_eq_getElem? hq]
  · have hshort : row.length ≤ j := (length_orderRow_le h).trans (not_lt.1 hj)
    rw [List.getElem?_eq_none hshort, List.getElem?_eq_none (hlen ▸ hshort)]

end

/-- Settles O20: a row holds each offset below CH once, and the rows of a table differ. -/
theorem ordersAreDistinctPermutations : Obligations.OrdersAreDistinctPermutations := by
  unfold Obligations.OrdersAreDistinctPermutations
  intro ch4 o ho
  obtain ⟨row, hrow⟩ := exists_orderRow ho
  refine ⟨fun k hk => ?_, off_ne_none_iff hrow, fun _ _ => off_lt hrow, fun q hq hoff => ?_⟩
  · obtain ⟨c, hc⟩ := exists_off_eq hrow hk
    exact ⟨c, (off_ne_none_iff hrow c).1 (by simp [hc]), hc, fun d hd => off_injective hrow hd hc⟩
  · obtain ⟨row', hrow'⟩ := exists_orderRow hq
    obtain rfl := orderRow_eq_of_off_eq hrow hrow' hoff
    exact orderRow_injective hrow hrow'

end Sys2Proof.Machine
end

section
/-! The host-side tick formula (42_timing.md): its two truncating divisions are one, and that one is the exact quotient's
floor. -/

namespace Sys2Proof.Machine

/-- Truncating twice loses nothing over truncating once by the product (R172). -/
theorem ticksFromNs_eq_div (ns clockRate divider : Nat) :
    ticksFromNs ns clockRate divider = ns * clockRate / (divider * 100) :=
  Nat.div_div_eq_div_mul (ns * clockRate) divider 100

theorem ticksFromNs_eq_floor (ns clockRate divider : Nat) :
    (ticksFromNs ns clockRate divider : Int) = ⌊((ns : ℚ) * clockRate) / ((divider : ℚ) * 100)⌋ := by
  rw [ticksFromNs_eq_div]
  exact_mod_cast (Rat.floor_natCast_div_natCast (ns * clockRate) (divider * 100)).symm

/-- Settles O59: the model's divisions are the exact quotient's floor, and the three examples of R178 are computed. -/
theorem ticksFromNsIsAFloor : Obligations.TicksFromNsIsAFloor := by
  unfold Obligations.TicksFromNsIsAFloor
  exact ⟨fun ns c d _ => ticksFromNs_eq_floor ns c d, by decide⟩

end Sys2Proof.Machine
end

section
/-! The strip controller's commands (43_controller.md R191 to R208). The three SET commands share one effect, a pixel stored by
the serializer: what it stores, what it keeps, and that storing it again changes nothing are shown of that effect, once. -/

namespace Sys2Proof.Machine

/-! ## Lifecycle (R191, R195) -/

/-- CONFIGURE goes on to its BIND when its local checks pass. -/
theorem exec_configure_binds {s : State} (hb : s.busy = false) (hu : s.stat.configured = false)
    (ho : s.conf.cfg.order.toNat < s.orderCount) (hfit : s.pixels * s.ch ≤ s.env.capBytes) :
    exec .configure s = .next s.bindAndConfigure :=
  command_passes hb (firstFailure_eq_none.2 (by simp [hu, ho, hfit])) _

/-- Settles O11: the effect of a BIND answered ok, its bytes by the reads after a zero fill. -/
theorem configureBindsAndZeroes : Obligations.ConfigureBindsAndZeroes := by
  unfold Obligations.ConfigureBindsAndZeroes
  intro s hb hu ho hfit ha
  refine ⟨_, (exec_configure_binds hb hu ho hfit).trans (congrArg _ (State.bindAndConfigure_ok ha)),
    rfl, rfl, rfl, fun a hlt => ?_, fun a hle => ?_, rfl, rfl, rfl, rfl, rfl⟩
  · exact (read_zeroFill ..).trans (if_pos hlt)
  · exact (read_zeroFill ..).trans (if_neg (not_lt.2 hle))

/-- Settles O12: the effect of a BIND answered error. -/
theorem refusedBindLeavesUnconfigured : Obligations.RefusedBindLeavesUnconfigured := by
  unfold Obligations.RefusedBindLeavesUnconfigured
  intro s hb hu ho hfit ha
  exact (exec_configure_binds hb hu ho hfit).trans (congrArg _ (State.bindAndConfigure_refused ha))

/-- Settles O13: RELEASE's one check passes, and its effect is a chain of named updates. -/
theorem releaseUnbinds : Obligations.ReleaseUnbinds := by
  unfold Obligations.ReleaseUnbinds
  intro s hb hc
  exact ⟨_, command_passes hb (firstFailure_eq_none.2 (by simp [hc])) _,
    rfl, rfl, rfl, rfl, rfl, rfl, rfl, rfl, rfl⟩

/-! ## What a pixel command keeps (R208) -/

theorem onlyPixelsChange_setCbuf (s : State) (m : Memory 8) : OnlyPixelsChange s (s.setCbuf m).succeed :=
  ⟨rfl, rfl, rfl, rfl, rfl, rfl, rfl, rfl, rfl⟩

theorem onlyPixelsChange_raise (s : State) (e : Err) : OnlyPixelsChange s (s.raise e) :=
  ⟨rfl, rfl, rfl, rfl, rfl, rfl, rfl, rfl, rfl⟩

theorem serialize_of_orderRow {s : State} {row : List Nat} (h : orderRow s.conf.cfg.ch4 s.conf.cfg.order = some row)
    (px : List Byte) (n : Nat) :
    serialize s px n = .next (s.setCbuf (writeChannels s.cbuf (n * s.ch) row px)).succeed := by
  simp only [serialize, h]

/-- The serializer writes within its pixel: a row's offsets are below CH. -/
theorem otherPixelsKept_serialize {s t : State} {px : List Byte} {n : Nat} (h : serialize s px n = .next t) :
    OtherPixelsKept s t n := by
  obtain ⟨row, hrow, rfl⟩ := serialize_cases h
  refine fun a ha => read_writeChannels_out _ _ _ _ _ fun o ho => ?_
  have hlt : o < s.ch := (State.orderRow_spec hrow).2.2 o ho
  omega

/-- What a SET command does once its checks have passed: it serializes some pixel at its index. -/
theorem Effect.exists_serialize {i : Instr} {n : Nat} {s t : State} (hi : i = .setRgb n ∨ i = .setRgbw n ∨ i = .setHsb n)
    (he : Effect i s t) : ∃ px, serialize s px n = .next t := by
  obtain rfl | rfl | rfl := hi <;>
  · obtain ⟨row, hrow, rfl⟩ := he
    exact ⟨_, serialize_of_orderRow hrow _ n⟩

/-- Settles O19: a refused SET command changes only ERR, and one that is carried out is a serialized pixel. -/
theorem setCommandsAreLocal : Obligations.SetCommandsAreLocal := by
  unfold Obligations.SetCommandsAreLocal
  intro i n s t hi h
  obtain ⟨-, rfl⟩ | ⟨-, x, -, rfl⟩ | ⟨-, -, he⟩ := exec_cases h
  · exact ⟨onlyPixelsChange_raise s _, fun _ _ _ => rfl, fun _ => rfl⟩
  · exact ⟨onlyPixelsChange_raise s x, fun _ _ _ => rfl, fun _ => rfl⟩
  · obtain ⟨px, hpx⟩ := he.exists_serialize hi
    have hother := otherPixelsKept_serialize hpx
    obtain ⟨row, -, rfl⟩ := serialize_cases hpx
    exact ⟨onlyPixelsChange_setCbuf s _, fun _ => hother, fun hne => absurd rfl hne⟩

/-! ## What a pixel command stores (R155, R198 to R202) -/

/-- With a legal ORDER the serializer completes, in the pixel alone. -/
theorem serialize_goesOn {s : State} (ho : s.conf.cfg.order.toNat < s.orderCount) (px : List Byte) (n : Nat) :
    ∃ t, serialize s px n = .next t ∧ t.stat.err = .ok ∧ OnlyPixelsChange s t ∧ OtherPixelsKept s t n := by
  obtain ⟨row, -, h⟩ := serialize_completes ho px n
  exact ⟨_, h, rfl, onlyPixelsChange_setCbuf s _, otherPixelsKept_serialize h⟩

section
variable {s t : State} {n : Nat}

/-- The three channels of an RGB strip, which has no offset for white. -/
theorem pixelStored_rgb {p : Rgb} (hch4 : s.conf.cfg.ch4 = false) (h : serialize s p.channels n = .next t) :
    PixelStored s t n p.red p.green p.blue none := by
  refine ⟨fun _ ho => serialize_read h ho rfl, fun _ ho => serialize_read h ho rfl,
    fun _ ho => serialize_read h ho rfl, fun o ho => ?_⟩
  obtain ⟨row, hrow, -⟩ := serialize_cases h
  exact absurd rfl ((off_ne_none_iff hrow .white).1 (by simp [ho]) hch4)

theorem pixelStored_rgbw {p : Rgbw} (h : serialize s p.channels n = .next t) :
    PixelStored s t n p.red p.green p.blue (some p.white) :=
  ⟨fun _ ho => serialize_read h ho rfl, fun _ ho => serialize_read h ho rfl, fun _ ho => serialize_read h ho rfl,
    fun _ ho => congrArg some (serialize_read h ho rfl)⟩

theorem State.storedChannels_of_rgb (h : s.conf.cfg.ch4 = false) (p : Rgb) : s.storedChannels p = p.channels := by
  simp [State.storedChannels, State.ch, h]

theorem State.storedChannels_of_rgbw (h : s.conf.cfg.ch4 = true) (p : Rgb) :
    s.storedChannels p = (s.convert p).channels := by
  simp [State.storedChannels, State.ch, h]

/-- The converter that CFG.CONV selects (R134). -/
theorem State.convert_eq {p : Rgb} {q : Rgbw} (hsimple : s.conf.cfg.conv = true → q = rgbToRgbwSimple p)
    (hcomplex : s.conf.cfg.conv = false → q = rgbToRgbwComplex p) : s.convert p = q := by
  unfold State.convert
  cases hconv : s.conf.cfg.conv with
  | true => exact (hsimple hconv).symm
  | false => exact (hcomplex hconv).symm

/-- An RGB operand as SET_RGB and SET_HSB store it, by the kind of strip. -/
theorem storeRgb_pixelStored {p : Rgb} (h : storeRgb s p n = .next t) :
    (s.conf.cfg.ch4 = false → PixelStored s t n p.red p.green p.blue none) ∧
    (s.conf.cfg.ch4 = true → ∀ q : Rgbw, (s.conf.cfg.conv = true → q = rgbToRgbwSimple p) →
      (s.conf.cfg.conv = false → q = rgbToRgbwComplex p) → PixelStored s t n q.red q.green q.blue (some q.white)) := by
  unfold storeRgb at h
  refine ⟨fun hch4 => ?_, fun hch4 q hsimple hcomplex => ?_⟩
  · rw [State.storedChannels_of_rgb hch4] at h
    exact pixelStored_rgb hch4 h
  · rw [State.storedChannels_of_rgbw hch4, State.convert_eq hsimple hcomplex] at h
    exact pixelStored_rgbw h

/-- The HSB operand, given by its finite and its non-finite case (R121, R122). -/
theorem State.hsbOperand_eq {rgb : Rgb}
    (hfin : ∀ h x v, f32val s.opnd.oph = some h → f32val s.opnd.ops = some x → f32val s.opnd.opb = some v →
      rgb = hsbToRgb h x v)
    (hnone : (f32val s.opnd.oph = none ∨ f32val s.opnd.ops = none ∨ f32val s.opnd.opb = none) → rgb = ⟨0, 0, 0⟩) :
    s.hsbOperand = rgb := by
  by_cases hn : f32val s.opnd.oph = none ∨ f32val s.opnd.ops = none ∨ f32val s.opnd.opb = none
  · rw [State.hsbOperand_of_nonfinite hn, hnone hn]
  · simp only [not_or, ← ne_eq, Option.ne_none_iff_exists'] at hn
    obtain ⟨⟨h, hh⟩, ⟨x, hx⟩, v, hv⟩ := hn
    rw [State.hsbOperand_of_finite hh hx hv, hfin h x v hh hx hv]

end

/-- Settles O14: the checks pass and the operand's colour is stored for the kind of strip. -/
theorem setRgbStoresThePixel : Obligations.SetRgbStoresThePixel := by
  unfold Obligations.SetRgbStoresThePixel
  intro s n hb hc ho hn
  obtain ⟨t, ht, herr, honly, hother⟩ := serialize_goesOn ho (s.storedChannels (unpackRgb s.opnd.opa)) n
  obtain ⟨hrgb, hrgbw⟩ := storeRgb_pixelStored ht
  refine ⟨t, (command_passes hb (firstFailure_eq_none.2 (by simp [hc, hn])) _).trans ht, herr, honly, hother, hrgb, ?_⟩
  rintro hch4 rgb q rfl
  exact hrgbw hch4 q

/-- Settles O15: an RGBW strip passes the checks, and its four channels are stored as they are. -/
theorem setRgbwStoresThePixel : Obligations.SetRgbwStoresThePixel := by
  unfold Obligations.SetRgbwStoresThePixel
  intro s n hb hc hch4 ho hn
  have hch : s.ch = 4 := by simp [State.ch, hch4]
  have ho' : s.conf.cfg.order.toNat < s.orderCount := by simpa [State.orderCount, hch] using ho
  obtain ⟨t, ht, herr, honly, hother⟩ := serialize_goesOn ho' (unpackRgbw s.opnd.opa).channels n
  exact ⟨t, (command_passes hb (firstFailure_eq_none.2 (by simp [hc, hch, hn])) _).trans ht, herr, honly, hother,
    pixelStored_rgbw ht⟩

/-- Settles O16: as SET_RGB, with the converted operand in place of OPA's colour. -/
theorem setHsbStoresThePixel : Obligations.SetHsbStoresThePixel := by
  unfold Obligations.SetHsbStoresThePixel
  intro s n hb hc ho hn
  obtain ⟨t, ht, herr, honly, hother⟩ := serialize_goesOn ho (s.storedChannels s.hsbOperand) n
  refine ⟨t, (command_passes hb (firstFailure_eq_none.2 (by simp [hc, hn])) _).trans ht, herr, honly, hother,
    fun rgb hfin hnone => ?_⟩
  obtain rfl := State.hsbOperand_eq hfin hnone
  exact storeRgb_pixelStored ht

/-- Settles O17: LIVE written out, and the bytes by the reads after a zero fill. -/
theorem clearZeroesTheLiveBuffer : Obligations.ClearZeroesTheLiveBuffer := by
  unfold Obligations.ClearZeroesTheLiveBuffer
  intro s hb hc
  refine ⟨State.live_of_configured hc, _, command_passes hb (firstFailure_eq_none.2 (by simp [hc])) _, rfl,
    onlyPixelsChange_setCbuf s _, fun a hlt => ?_, fun a hle => ?_⟩
  · exact (read_zeroFill ..).trans (if_pos hlt)
  · exact (read_zeroFill ..).trans (if_neg (not_lt.2 hle))

/-! ## Running a pixel command twice (R207) -/

theorem zeroFill_zeroFill {m : Memory 8} (hm : Memory.wf m = true) (n : Nat) :
    zeroFill (zeroFill m n) n = zeroFill m n := by
  have hwf := wf_zeroFill n hm
  refine Memory.ext_of_wf (wf_zeroFill n hwf) hwf fun a => ?_
  by_cases ha : a < n <;> simp [read_zeroFill, ha]

/-- A byte that is written has a value that no earlier content changes; every other byte is kept. -/
theorem read_writeChannels_cases (base : Nat) (row : List Nat) (px : List Byte) (a : Nat) :
    (∃ v, ∀ m, Memory.read (writeChannels m base row px) a = v) ∨
    ∀ m, Memory.read (writeChannels m base row px) a = Memory.read m a := by
  induction row generalizing px with
  | nil => exact .inr fun m => by simp [writeChannels]
  | cons o row ih =>
    cases px with
    | nil => exact .inr fun m => by simp [writeChannels]
    | cons v px =>
      obtain ⟨u, hu⟩ | hkept := ih px
      · exact .inl ⟨u, fun m => hu _⟩
      · by_cases ha : a = base + o
        · exact .inl ⟨v, fun m => by rw [writeChannels, hkept, ha, Memory.read_write_same]⟩
        · exact .inr fun m => by rw [writeChannels, hkept, Memory.read_write_other m v ha]

theorem writeChannels_writeChannels {m : Memory 8} (hm : Memory.wf m = true) (base : Nat) (row : List Nat)
    (px : List Byte) :
    writeChannels (writeChannels m base row px) base row px = writeChannels m base row px := by
  have hwf := wf_writeChannels base row px hm
  refine Memory.ext_of_wf (wf_writeChannels base row px hwf) hwf fun a => ?_
  obtain ⟨v, hv⟩ | hkept := read_writeChannels_cases base row px a
  · rw [hv, hv]
  · rw [hkept]

theorem next_setCbuf_again {s : State} {m m' : Memory 8} (h : m' = m) :
    (.next ((s.setCbuf m).succeed.setCbuf m').succeed : Host.Outcome State Fault Refusal) =
      .next (s.setCbuf m).succeed := by
  rw [h]
  rfl

/-- Serializing a pixel again leaves what serializing it once left. -/
theorem serialize_again {s t : State} (hm : Memory.wf s.cbuf = true) {px : List Byte} {n : Nat}
    (h : serialize s px n = .next t) : serialize t px n = .next t := by
  obtain ⟨row, hrow, rfl⟩ := serialize_cases h
  have hrow' : orderRow (s.setCbuf (writeChannels s.cbuf (n * s.ch) row px)).succeed.conf.cfg.ch4 _ = some row := hrow
  refine (serialize_of_orderRow hrow' px n).trans ?_
  exact next_setCbuf_again (writeChannels_writeChannels hm _ row px)

/-- A new colour buffer makes no command BUSY. -/
theorem command_passes_setCbuf {s : State} (hb : s.busy = false) {cs : List (Bool × Err)} (hc : firstFailure cs = none)
    (m : Memory 8) (e : Host.Outcome State Fault Refusal) : command (s.setCbuf m).succeed cs e = e :=
  command_passes (s := (s.setCbuf m).succeed) hb hc e

@[simp] theorem checksOf_setErr (i : Instr) (s : State) (e : Err) : checksOf i (s.setErr e) = checksOf i s := by
  cases i <;> rfl

/-- Settles O18: a refused command is refused again by the same check; one that is carried out passes its checks again and
stores what stands there. -/
theorem setAndClearAreIdempotent : Obligations.SetAndClearAreIdempotent := by
  unfold Obligations.SetAndClearAreIdempotent
  intro i s t hm hi h
  obtain ⟨hb, rfl⟩ | ⟨hb, x, hx, rfl⟩ | ⟨hb, hc, he⟩ := exec_cases h
  · exact exec_busy i hb
  · exact exec_fails hb ((congrArg firstFailure (checksOf_setErr i s x)).trans hx)
  · obtain hset | rfl : (∃ n, i = .setRgb n ∨ i = .setRgbw n ∨ i = .setHsb n) ∨ i = .clear := by
      simpa only [exists_or, or_assoc] using hi
    · obtain ⟨n, rfl | rfl | rfl⟩ := hset <;>
      · obtain ⟨row, hrow, rfl⟩ := he
        exact (command_passes_setCbuf hb hc _ _).trans (serialize_again hm (serialize_of_orderRow hrow _ n))
    · cases he
      exact (command_passes_setCbuf hb hc _ _).trans (next_setCbuf_again (zeroFill_zeroFill hm _))

end Sys2Proof.Machine
end

section
/-! RENDER, the pulse sequence and the waveform (44_render.md). The one idea is that the stream is the colour buffer read bit by
bit: descriptor `m` encodes bit `7 − m % 8` of `CBUF[m / 8]` (`State.streamBit_eq_cbuf`). The wire order and the zeros after CLEAR
follow from it. -/

namespace Sys2Proof.Machine

/-! ## Accepted commands -/

theorem firstFailure_ne_ok {cs : List (Bool × Err)} (h : ∀ c ∈ cs, c.2 ≠ .ok) : firstFailure cs ≠ some .ok := by
  induction cs with
  | nil => exact (Option.some_ne_none _).symm
  | cons c cs ih =>
    obtain ⟨hc, hcs⟩ := List.forall_mem_cons.1 h
    obtain ⟨_ | _, e⟩ := c
    · exact ih hcs
    · exact fun he => hc (Option.some.inj he)

/-- No check of a command raises OK. -/
theorem firstFailure_checksOf_ne_ok (i : Instr) (s : State) : firstFailure (checksOf i s) ≠ some .ok :=
  firstFailure_ne_ok (by cases i <;> simp [checksOf])

/-- A command that leaves ERR = OK has passed every check and had its effect (R39, R261). -/
theorem exec_accepted {i : Instr} {s t : State} (h : exec i s = .next t) (hok : t.stat.err = .ok) :
    firstFailure (checksOf i s) = none ∧ Effect i s t := by
  obtain ⟨-, rfl⟩ | ⟨-, x, hx, rfl⟩ | ⟨-, hpass, heff⟩ := exec_cases h
  · exact absurd hok Err.noConfusion
  · obtain rfl : x = .ok := hok
    exact absurd hx (firstFailure_checksOf_ne_ok i s)
  · exact ⟨hpass, heff⟩

/-- A RENDER that leaves ERR = OK built its sequence and started to play it (R236). -/
theorem exec_render_accepted {s t : State} (h : exec .render s = .next t) (hok : t.stat.err = .ok) :
    s.stat.configured = true ∧ t = ((s.build.setTxs .active).send (.play (s.pixels * s.bits))).succeed := by
  obtain ⟨hpass, heff⟩ := exec_accepted h hok
  exact ⟨by simpa [checksOf] using firstFailure_eq_none.1 hpass, heff⟩

/-- A CLEAR that leaves ERR = OK zeroed the live bytes (R204). -/
theorem exec_clear_accepted {s t : State} (h : exec .clear s = .next t) (hok : t.stat.err = .ok) :
    s.stat.configured = true ∧ t = (s.setCbuf (zeroFill s.cbuf s.live)).succeed := by
  obtain ⟨hpass, heff⟩ := exec_accepted h hok
  exact ⟨by simpa [checksOf] using firstFailure_eq_none.1 hpass, heff⟩

/-! ## The bit stream (R230 to R232) -/

theorem concatBytes_append_singleton (bs : List Byte) (b : Byte) :
    concatBytes (bs ++ [b]) = 2 ^ 8 * concatBytes bs + b.toNat := by
  simp [concatBytes, Nat.mul_comm]

/-- Bit `j` of byte `k` of a concatenation, the first byte being the most significant. -/
theorem testBit_concatBytes (bs : List Byte) {k j : Nat} (hk : k < bs.length) (hj : j < 8) :
    (concatBytes bs).testBit (8 * (bs.length - 1 - k) + j) = bs[k].getLsbD j := by
  induction bs using List.reverseRecOn with
  | nil => simp at hk
  | append_singleton bs b ih =>
    rw [concatBytes_append_singleton, Nat.testBit_two_pow_mul_add _ b.isLt, List.length_append, List.length_singleton]
    rw [List.length_append, List.length_singleton] at hk
    obtain hlt | rfl : k < bs.length ∨ k = bs.length := by omega
    · rw [if_neg (by omega), List.getElem_append_left hlt, ← ih hlt]
      congr 1
      omega
    · rw [List.getElem_concat_length rfl, Nat.add_sub_cancel, Nat.sub_self, Nat.mul_zero, Nat.zero_add, if_pos hj]
      rfl

/-- Bit `j` of byte `k` of a pixel's word (R230). -/
theorem State.testBit_pixelWord (s : State) (i : Nat) {k j : Nat} (hk : k < s.ch) (hj : j < 8) :
    (s.pixelWord i).testBit (8 * (s.ch - 1 - k) + j) = (s.cbuf.read (i * s.ch + k)).getLsbD j := by
  have hlen : (s.pixelBytes i).length = s.ch := by simp [State.pixelBytes]
  have h := testBit_concatBytes (s.pixelBytes i) (hlen.symm ▸ hk : k < (s.pixelBytes i).length) hj
  simpa [State.pixelWord, State.pixelBytes] using h

/-- Descriptor `m` encodes the colour buffer's bit `m`, each byte most significant bit first. -/
theorem State.streamBit_eq_cbuf (s : State) (m : Nat) :
    s.streamBit m = (s.cbuf.read (m / 8)).getLsbD (7 - m % 8) := by
  have hdiv : m / s.bits = m / 8 / s.ch := (Nat.div_div_eq_div_mul m 8 s.ch).symm
  have hmod : m % s.bits = m % 8 + 8 * (m / 8 % s.ch) := Nat.mod_mul
  have hk : m / 8 % s.ch < s.ch := Nat.mod_lt _ s.ch_pos
  have hpos : s.bits - 1 - m % s.bits = 8 * (s.ch - 1 - m / 8 % s.ch) + (7 - m % 8) := by
    rw [hmod, State.bits]
    omega
  rw [State.streamBit, hdiv, hpos, s.testBit_pixelWord _ hk (by omega), Nat.div_add_mod']

/-- Descriptor `i × B + n` encodes `word_i[B − 1 − n]` (R231). -/
theorem State.streamBit_pixel (s : State) (i : Nat) {n : Nat} (hn : n < s.bits) :
    s.streamBit (i * s.bits + n) = (s.pixelWord i).testBit (s.bits - 1 - n) := by
  rw [State.streamBit, Nat.mul_add_mod', Nat.mod_eq_of_lt hn, Nat.mul_comm, Nat.mul_add_div s.bits_pos,
    Nat.div_eq_of_lt hn, Nat.add_zero]

/-- Descriptor `i × B + 8k + (7 − j)` encodes bit `j` of `CBUF[i × CH + k]` (R232). -/
theorem State.streamBit_byte (s : State) (i k : Nat) {j : Nat} (hj : j < 8) :
    s.streamBit (i * s.bits + 8 * k + (7 - j)) = (s.cbuf.read (i * s.ch + k)).getLsbD j := by
  have hsplit : i * s.bits + 8 * k + (7 - j) = 8 * (i * s.ch + k) + (7 - j) := by
    rw [State.bits, Nat.mul_add, Nat.mul_left_comm]
  rw [s.streamBit_eq_cbuf, hsplit]
  congr 2 <;> omega

/-- A place within a pixel is a place within the stream. -/
theorem State.lt_stream {s : State} {i n : Nat} (hi : i < s.pixels) (hn : n < s.bits) :
    i * s.bits + n < s.pixels * s.bits :=
  calc i * s.bits + n < (i + 1) * s.bits := by rw [Nat.succ_mul]; omega
    _ ≤ s.pixels * s.bits := Nat.mul_le_mul_right _ hi

/-- N × B bits come from N × CH bytes. -/
theorem State.byte_lt_of_lt_stream {s : State} {m : Nat} (hm : m < s.pixels * s.bits) : m / 8 < s.pixels * s.ch := by
  rw [State.bits, Nat.mul_left_comm] at hm
  omega

/-! ## RENDER (R231 to R239) -/

/-- Settles O29: RENDER's one check passes, and the built sequence is read descriptor by descriptor. -/
theorem renderBuildsThePulseSequence : Obligations.RenderBuildsThePulseSequence := by
  unfold Obligations.RenderBuildsThePulseSequence
  intro s hb hc
  refine ⟨_, command_passes hb (firstFailure_eq_none.2 (by simp [hc])) _,
    rfl, s.build_plen, ?_, fun i b hi hlt => ?_, s.read_build_term, fun k hk => s.read_build_out hk,
    rfl, rfl, rfl, rfl, rfl⟩
  · unfold State.bits State.ch
    cases s.conf.cfg.ch4 <;> rfl
  · exact (s.read_build_bit (State.lt_stream hi hlt)).trans (by rw [s.streamBit_pixel i hlt]; rfl)

/-- Settles O30: the descriptor's place in the stream is its byte's bit. -/
theorem wireOrderIsMsbFirst : Obligations.WireOrderIsMsbFirst := by
  unfold Obligations.WireOrderIsMsbFirst
  intro s t _ h hok i k j hi hk hj
  obtain ⟨-, rfl⟩ := exec_render_accepted h hok
  have hm : i * s.bits + 8 * k + (7 - j) < s.pixels * s.bits := by
    rw [Nat.add_assoc]
    exact State.lt_stream hi (by unfold State.bits; omega)
  exact (s.read_build_bit hm).trans (by rw [s.streamBit_byte i k hj]; rfl)

/-- The same configuration and live bytes build the same descriptors, whatever PBUF held (R238). -/
theorem State.read_build_congr {s t : State} (hconf : s.conf = t.conf)
    (hcbuf : ∀ a, a < s.pixels * s.ch → s.cbuf.read a = t.cbuf.read a) {k : Nat} (hk : k ≤ s.pixels * s.bits) :
    s.build.pbuf.read k = t.build.pbuf.read k := by
  have hlen : t.pixels * t.bits = s.pixels * s.bits := by simp only [State.pixels, State.bits, State.ch, hconf]
  obtain hlt | rfl := Nat.lt_or_eq_of_le hk
  · rw [s.read_build_bit hlt, t.read_build_bit (hlen.symm ▸ hlt), State.streamBit_congr hconf hlt hcbuf, hconf]
  · rw [s.read_build_term, ← hlen, t.read_build_term]

/-- Settles O32: both RENDERs build from the same configuration and the same live bytes. -/
theorem rerenderIsIdentical : Obligations.RerenderIsIdentical := by
  unfold Obligations.RerenderIsIdentical
  intro s t r u hst hsok hconf hlive hru huok
  obtain ⟨-, rfl⟩ := exec_render_accepted hst hsok
  obtain ⟨hrc, rfl⟩ := exec_render_accepted hru huok
  have hconf : r.conf = s.conf := hconf
  have hcbuf : ∀ a, a < r.pixels * r.ch → r.cbuf.read a = s.cbuf.read a := State.live_of_configured hrc ▸ hlive
  refine ⟨?_, fun k hk => ?_⟩
  · show r.build.plen = s.build.plen
    simp only [State.build, State.setPlen_plen, State.pixels, State.bits, State.ch, hconf]
  · have hk : k < r.build.plen.toNat := hk
    rw [State.build_plen] at hk
    exact State.read_build_congr hconf hcbuf (Nat.le_of_lt_succ hk)

/-- Zero bytes build 0 bits (R239, R294). -/
theorem State.read_build_of_zero {s : State} (hzero : ∀ a, a < s.pixels * s.ch → s.cbuf.read a = 0) {n : Nat}
    (hn : n < s.pixels * s.bits) : s.build.pbuf.read n = descriptor s.conf.t0h s.conf.t0l := by
  have hbit : s.streamBit n = false := by
    rw [s.streamBit_eq_cbuf, hzero _ (State.byte_lt_of_lt_stream hn)]
    exact BitVec.getLsbD_zero
  rw [s.read_build_bit hn, hbit]
  rfl

/-- Settles O33: CLEAR zeroes every byte that RENDER reads. -/
theorem clearThenRenderSendsZeros : Obligations.ClearThenRenderSendsZeros := by
  unfold Obligations.ClearThenRenderSendsZeros
  intro s t u hst htok htu huok
  obtain ⟨hc, rfl⟩ := exec_clear_accepted hst htok
  obtain ⟨-, rfl⟩ := exec_render_accepted htu huok
  have hzero : ∀ a, a < s.pixels * s.ch → (zeroFill s.cbuf s.live).read a = 0 := fun a ha =>
    (read_zeroFill ..).trans (if_pos (State.live_of_configured hc ▸ ha))
  exact ⟨fun n hn => State.read_build_of_zero hzero hn, State.read_build_term _⟩

/-! ## Descriptors and the waveform (R233, R242, R245) -/

/-- The value of a descriptor. -/
theorem toNat_descriptor (h l : Ticks) : (descriptor h l).toNat = l.toNat * 2 ^ 16 + (2 ^ 15 + h.toNat) := by
  have happend {n k : Nat} (x : BitVec n) (y : BitVec k) : (x ++ y).toNat = x.toNat * 2 ^ k + y.toNat := by
    rw [BitVec.toNat_append, ← Nat.shiftLeft_add_eq_or_of_lt y.isLt, Nat.shiftLeft_eq]
  have hzero : (0 : BitVec 1).toNat = 0 := rfl
  have hone : (1 : BitVec 1).toNat = 1 := rfl
  rw [descriptor, happend, happend, happend, hzero, hone]
  omega

/-- The closed form of R233 has disjoint fields, so its value is their sum. -/
theorem toNat_fields_or (h l : Ticks) :
    ((l.zeroExtend 32 <<< 16) ||| 0x8000 ||| h.zeroExtend 32).toNat = l.toNat * 2 ^ 16 + (2 ^ 15 + h.toNat) := by
  have hh : (h.zeroExtend 32).toNat = h.toNat := BitVec.toNat_setWidth_of_le (by decide)
  have hl : (l.zeroExtend 32 <<< 16).toNat = l.toNat <<< 16 := by
    rw [BitVec.toNat_shiftLeft, BitVec.toNat_setWidth_of_le (by decide), Nat.shiftLeft_eq]
    omega
  calc ((l.zeroExtend 32 <<< 16) ||| 0x8000 ||| h.zeroExtend 32).toNat
      = l.toNat <<< 16 ||| (1 <<< 15 ||| h.toNat) := by
        rw [BitVec.toNat_or, BitVec.toNat_or, hh, hl, Nat.or_assoc]; rfl
    _ = l.toNat <<< 16 ||| (2 ^ 15 + h.toNat) := by rw [← Nat.shiftLeft_add_eq_or_of_lt h.isLt]; rfl
    _ = l.toNat * 2 ^ 16 + (2 ^ 15 + h.toNat) := by
        rw [← Nat.shiftLeft_add_eq_or_of_lt (by omega), Nat.shiftLeft_eq]

/-- Settles O31: a field or a bit of a descriptor is a quotient of its value, and the closed form has the same value. -/
theorem descriptorLayout : Obligations.DescriptorLayout := by
  unfold Obligations.DescriptorLayout
  intro h l
  have hd := toNat_descriptor h l
  have hfield (i : Nat) : ((descriptor h l).extractLsb' i 15).toNat =
      (l.toNat * 2 ^ 16 + (2 ^ 15 + h.toNat)) / 2 ^ i % 2 ^ 15 := by
    rw [BitVec.extractLsb'_toNat, hd, Nat.shiftRight_eq_div_pow]
  have hbit (i : Nat) : (descriptor h l).getLsbD i =
      decide ((l.toNat * 2 ^ 16 + (2 ^ 15 + h.toNat)) / 2 ^ i % 2 = 1) := by
    rw [BitVec.getLsbD, hd, Nat.testBit_eq_decide_div_mod_eq]
  refine ⟨BitVec.eq_of_toNat_eq ((hfield 0).trans ?_), (hbit 15).trans (decide_eq_true ?_),
    BitVec.eq_of_toNat_eq ((hfield 16).trans ?_), (hbit 31).trans (decide_eq_false ?_),
    BitVec.eq_of_toNat_eq (hd.trans (toNat_fields_or h l).symm)⟩ <;> omega

/-- A descriptor is high for `h` ticks and then low for `l`. -/
theorem segments_descriptor (h l : Ticks) : segments (descriptor h l) = [(true, h.toNat), (false, l.toNat)] := by
  obtain ⟨hhigh, hlevel0, hlow, hlevel1, -⟩ := descriptorLayout h l
  rw [segments, hhigh, hlevel0, hlow, hlevel1]

theorem segments_bitDescriptor (c : Conf) (bit : Bool) :
    segments (bitDescriptor c bit) =
      [(true, if bit then c.t1h.toNat else c.t0h.toNat), (false, if bit then c.t1l.toNat else c.t0l.toNat)] := by
  cases bit <;> exact segments_descriptor _ _

/-- With all four tick values at least 1 no bit has a zero-tick segment (R177). -/
theorem ticks_ne_zero_of_mem_segments {c : Conf} (h0h : c.t0h ≠ 0) (h0l : c.t0l ≠ 0) (h1h : c.t1h ≠ 0) (h1l : c.t1l ≠ 0)
    {bit : Bool} {g : Segment} (hg : g ∈ segments (bitDescriptor c bit)) : g.2 ≠ 0 := by
  have toNat_ne {x : Ticks} (hx : x ≠ 0) : x.toNat ≠ 0 := fun h => hx (BitVec.eq_of_toNat_eq h)
  rw [segments_bitDescriptor] at hg
  cases bit <;> obtain rfl | rfl : g = _ ∨ g = _ := by simpa using hg
  · exact toNat_ne h0h
  · exact toNat_ne h0l
  · exact toNat_ne h1h
  · exact toNat_ne h1l

/-- The waveform of a built sequence, bit by bit. -/
theorem State.wave_build (s : State) :
    s.build.wave (s.pixels * s.bits) =
      (List.range (s.pixels * s.bits)).flatMap fun m => segments (bitDescriptor s.conf (s.streamBit m)) :=
  List.flatMap_congr fun m hm => by rw [s.read_build_bit (List.mem_range.1 hm)]

/-- Settles O35: the segments of each bit's descriptor, none of them of zero ticks where all tick values are at least 1. -/
theorem waveIsHighThenLowPerBit : Obligations.WaveIsHighThenLowPerBit := by
  unfold Obligations.WaveIsHighThenLowPerBit
  intro s t h hok
  obtain ⟨-, rfl⟩ := exec_render_accepted h hok
  refine ⟨s.wave_build.trans (by simp only [segments_bitDescriptor]), fun h0h h0l h1h h1l => ?_⟩
  refine emitWave_of_forall _ fun g hg => ?_
  obtain ⟨m, -, hg⟩ := List.mem_flatMap.1 (s.wave_build ▸ hg)
  exact ticks_ne_zero_of_mem_segments h0h h0l h1h h1l hg

/-! ## The Transmitter's events (R237) -/

/-- Settles O36: an event while ACTIVE sets TXS, and one that is not enabled changes nothing. -/
theorem transmitterEventsEndThePlay : Obligations.TransmitterEventsEndThePlay := by
  unfold Obligations.TransmitterEventsEndThePlay
  exact fun s => ⟨fun h => ⟨txEvent_of_busy (s.busy_iff.2 h) .done, txEvent_of_busy (s.busy_iff.2 h) .fail⟩,
    fun h e => txEvent_of_not_busy (s.not_busy_iff.2 h) e⟩

end Sys2Proof.Machine
end

section
/-! Errors (60_exceptions.md R260 to R263): what a failed command leaves, the BUSY check that stands before every other, and the
error of each check in its order. -/

namespace Sys2Proof.Machine

/-! ## Failed commands (R263) -/

/-- An effect ends in ERR = OK, but for CONFIGURE's where the Transmitter refuses the BIND (R191). -/
theorem Effect.err_eq_ok_or_bindRefused {i : Instr} {s t : State} (h : Effect i s t) :
    t.stat.err = .ok ∨ (i = .configure ∧ s.bindAnswer = false ∧ t = s.bind.setErr .config) := by
  cases i with
  | configure =>
    cases ha : s.bindAnswer with
    | true => exact .inl (congrArg (·.stat.err) (h.trans (State.bindAndConfigure_ok ha)))
    | false => exact .inr ⟨rfl, rfl, h.trans (State.bindAndConfigure_refused ha)⟩
  | setRgb n | setRgbw n | setHsb n =>
    obtain ⟨row, -, rfl⟩ := h
    exact .inl rfl
  | release | clear | render | convHsb2rgb | convRgb2rgbwSimple | convRgb2rgbwComplex => exact .inl (congrArg (·.stat.err) h)

/-- A command that leaves an error has written ERR alone, after the BIND where that was refused. -/
theorem exec_failed {i : Instr} {s t : State} (h : exec i s = .next t) (herr : t.stat.err ≠ .ok) :
    (∃ x, t = s.setErr x) ∨ (i = .configure ∧ s.bindAnswer = false ∧ t = s.bind.setErr .config) := by
  obtain ⟨-, ht⟩ | ⟨-, x, -, ht⟩ | ⟨-, -, heff⟩ := exec_cases h
  · exact .inl ⟨.busy, ht⟩
  · exact .inl ⟨x, ht⟩
  · exact .inr (heff.err_eq_ok_or_bindRefused.resolve_left herr)

/-- Settles O8: a failed command writes ERR alone, and a refused BIND changes the environment besides. -/
theorem failedCommandChangesOnlyErr : Obligations.FailedCommandChangesOnlyErr := by
  unfold Obligations.FailedCommandChangesOnlyErr
  intro i s t h herr
  obtain ⟨x, rfl⟩ | ⟨hi, ha, rfl⟩ := exec_failed h herr
  · exact ⟨rfl, rfl, rfl, rfl, rfl, rfl, rfl, rfl, rfl, .inl rfl⟩
  · exact ⟨rfl, rfl, rfl, rfl, rfl, rfl, rfl, rfl, rfl, .inr ⟨hi, ha, rfl, rfl⟩⟩

/-! ## The checks in their order (R261) -/

/-- Settles O9: a CMD write issues its word, and both `issue` and each command check BUSY first. -/
theorem busyRefusesEveryWord : Obligations.BusyRefusesEveryWord := by
  unfold Obligations.BusyRefusesEveryWord
  exact ⟨fun w s hb => (hostAccess_write_reg s .cmd w).trans (issue_of_busy hb w), fun i _ hb => exec_busy i hb⟩

section
variable {s : State} (hb : s.busy = false)
include hb

/-- A command that checks CONFIGURED = 1 first raises ERR_NOT_CONFIGURED on an unconfigured block, whatever else fails. -/
theorem exec_notConfigured (hu : s.stat.configured = false) {i : Instr} {cs : List (Bool × Err)}
    (hi : checksOf i s = (!s.stat.configured, .notConfigured) :: cs) : exec i s = .next (s.setErr .notConfigured) :=
  exec_fails hb (by simp [hi, hu])

theorem exec_configure_alreadyConfigured (hc : s.stat.configured = true) :
    exec .configure s = .next (s.setErr .alreadyConfigured) :=
  exec_fails hb (by simp [checksOf, hc])

/-- The strip type is checked before the index. -/
theorem exec_setRgbw_mismatch (hc : s.stat.configured = true) (hch4 : s.conf.cfg.ch4 = false) (n : Nat) :
    exec (.setRgbw n) s = .next (s.setErr .mismatch) :=
  exec_fails hb (by simp [checksOf, hc, State.ch, hch4])

/-- The index check of a pixel command, the last of its checks (R262). -/
theorem exec_index {n : Nat} (hc : s.stat.configured = true) (hn : s.pixels ≤ n) {i : Instr}
    (hi : i = .setRgb n ∨ (i = .setRgbw n ∧ s.conf.cfg.ch4 = true) ∨ i = .setHsb n) :
    exec i s = .next (s.setErr .index) := by
  obtain rfl | ⟨rfl, hch4⟩ | rfl := hi
  · exact exec_fails hb (by simp [checksOf, hc, hn])
  · exact exec_fails hb (by simp [checksOf, hc, hn, State.ch, hch4])
  · exact exec_fails hb (by simp [checksOf, hc, hn])

/-- CONFIGURE's two local checks raise the same error, so either of them failing is enough. -/
theorem exec_configure_config (hu : s.stat.configured = false)
    (h : s.orderCount ≤ s.conf.cfg.order.toNat ∨ s.env.capBytes < s.pixels * s.ch) :
    exec .configure s = .next (s.setErr .config) := by
  obtain horder | hcap := h
  · exact exec_fails hb (by simp [checksOf, hu, horder])
  · exact exec_fails hb (by simp [checksOf, hu, hcap])

end

/-- Settles O10: one lemma per check. -/
theorem eachCheckRaisesItsError : Obligations.EachCheckRaisesItsError := by
  unfold Obligations.EachCheckRaisesItsError
  intro s hb
  refine ⟨fun hu => ?_, fun hc => ?_, fun hu => ?_⟩
  · exact ⟨exec_notConfigured hb hu rfl, fun _ => exec_notConfigured hb hu rfl, fun _ => exec_notConfigured hb hu rfl,
      fun _ => exec_notConfigured hb hu rfl, exec_notConfigured hb hu rfl, exec_notConfigured hb hu rfl⟩
  · exact ⟨exec_configure_alreadyConfigured hb hc, exec_setRgbw_mismatch hb hc, fun n hn =>
      ⟨exec_index hb hc hn (.inl rfl), fun hch4 => exec_index hb hc hn (.inr (.inl ⟨rfl, hch4⟩)),
        exec_index hb hc hn (.inr (.inr rfl))⟩⟩
  · refine ⟨fun ⟨hch4, ho⟩ => ?_, fun ⟨hch4, ho⟩ => ?_, fun hcap => exec_configure_config hb hu (.inr hcap)⟩
    · exact exec_configure_config hb hu (.inl (by simpa [State.orderCount, State.ch, hch4] using ho))
    · exact exec_configure_config hb hu (.inl (by simpa [State.orderCount, State.ch, hch4] using ho))

end Sys2Proof.Machine
end

section
/-! The first RENDER (70_reset_and_hazards.md R294). CONFIGURE leaves an idle, configured block whose live bytes are all zero;
CLEAR zeroes those bytes once more, so a RENDER builds the same sequence with it and without it. -/

namespace Sys2Proof.Machine

/-- A CONFIGURE that leaves ERR = OK had its BIND answered ok (R191). -/
theorem exec_configure_accepted {s t : State} (h : exec .configure s = .next t) (hok : t.stat.err = .ok) :
    t = ((((s.bind.setCbuf (zeroFill s.cbuf (s.pixels * s.ch))).setPlen 0).setTxs .idle).setConfigured true).succeed := by
  obtain ⟨-, heff⟩ := exec_accepted h hok
  obtain rfl : t = s.bindAndConfigure := heff
  cases ha : s.bindAnswer with
  | true => exact State.bindAndConfigure_ok ha
  | false =>
    rw [State.bindAndConfigure_refused ha] at hok
    exact absurd hok Err.noConfusion

/-- After an accepted CONFIGURE the live colour bytes are 0 (R191, R294). -/
theorem read_cbuf_of_configure {s t : State} (h : exec .configure s = .next t) (hok : t.stat.err = .ok) {a : Nat}
    (ha : a < t.live) : t.cbuf.read a = 0 := by
  obtain rfl := exec_configure_accepted h hok
  exact (read_zeroFill ..).trans (if_pos ha)

/-- RENDER on an idle, configured block is accepted (R236). -/
theorem exec_render_of_idle {s t : State} (h : exec .render s = .next t) (hb : s.busy = false)
    (hc : s.stat.configured = true) : t = ((s.build.setTxs .active).send (.play (s.pixels * s.bits))).succeed :=
  next_inj ((command_passes hb (firstFailure_eq_none.2 (by simp [hc])) _).symm.trans h)

/-- CLEAR on an idle, configured block is accepted (R204). -/
theorem exec_clear_of_idle {s t : State} (h : exec .clear s = .next t) (hb : s.busy = false)
    (hc : s.stat.configured = true) : t = (s.setCbuf (zeroFill s.cbuf s.live)).succeed :=
  next_inj ((command_passes hb (firstFailure_eq_none.2 (by simp [hc])) _).symm.trans h)

/-- Settles O34: CLEAR writes zeros over the zeros that CONFIGURE left, so the RENDER after it is the first RENDER again (R238). -/
theorem firstRenderSendsZeros : Obligations.FirstRenderSendsZeros := by
  unfold Obligations.FirstRenderSendsZeros
  intro s t u c v hst hok htu htc hcv
  have hzero : ∀ a, a < t.live → t.cbuf.read a = 0 := fun _ => read_cbuf_of_configure hst hok
  obtain ⟨hb, hc⟩ : t.busy = false ∧ t.stat.configured = true := by
    obtain rfl := exec_configure_accepted hst hok
    exact ⟨rfl, rfl⟩
  obtain rfl := exec_render_of_idle htu hb hc
  obtain rfl := exec_clear_of_idle htc hb hc
  obtain rfl := exec_render_of_idle hcv hb hc
  have hclear : ∀ a, a < t.live → (zeroFill t.cbuf t.live).read a = t.cbuf.read a := fun a ha => by
    rw [read_zeroFill, if_pos ha, hzero a ha]
  obtain ⟨hplen, hpbuf⟩ :=
    rerenderIsIdentical t _ (t.setCbuf (zeroFill t.cbuf t.live)).succeed _ htu rfl rfl hclear hcv rfl
  exact ⟨hzero, fun n hn => State.read_build_of_zero (State.live_of_configured hc ▸ hzero) hn,
    fun n hn => (hpbuf n (hplen ▸ hn)).symm, hplen.symm⟩

end Sys2Proof.Machine
end
